-- ==== Sys2Proof/Word.lean ====
section
/-! DEFINITION. The word types of the block: every register and every framebuffer pixel is one 32-bit
value (spec/20_memory.md R57), a byte lane is 8 bits. -/

namespace Sys2Proof

/-- A register, command word or pixel word: 32 bits, bit 0 least significant (R8). -/
abbrev Word := BitVec 32

/-- One byte lane of a host bus that carries words on lanes (R57). -/
abbrev Byte := BitVec 8

end Sys2Proof
end

