-- ==== Sys2Proof/Config.lean ====
section
/-! DEFINITION. What an implementation fixes (spec/00_scope.md R6) and the one free value of the model:
the framebuffer's contents after reset (spec/70_reset_and_hazards.md R201). -/

namespace Sys2Proof

/-- Parameter PACKING of R6: which bits of a pixel word hold which channel (R11). -/
inductive Packing where
  | alphaHigh
  | alphaLow
deriving DecidableEq, Repr

/-- Parameter LERP_FORM of R6: the integer formula of the colour interpolation (R104). -/
inductive LerpForm where
  | weightedSum
  | deltaTrunc
deriving DecidableEq, Repr

/-- The parameters of R6. They are not state (R35); the model's State carries them in a field no step
changes (log 1). `base` is a plain number because the spec gives no bus address width (log 12). -/
structure Config where
  width    : Nat
  height   : Nat
  packing  : Packing
  lerpForm : LerpForm
  base     : Nat
deriving DecidableEq, Repr

/-- `N = W * H`, the pixel count (R7). -/
def Config.pixels (c : Config) : Nat := c.width * c.height

/-- The configuration `State.reset` carries. PACKING and LERP_FORM are the defaults of R6. W and H
have no default and BASE is OPEN: 4, 3 and 0 are a DESIGN CHOICE (log 2). -/
def Config.initial : Config :=
  { width := 4, height := 3, packing := .alphaHigh, lerpForm := .weightedSum, base := 0 }

/-- FREE VALUE (R201, I3; log 3): what pixel `i` holds after the `draw`-th reset, as long as nothing
has written it. It has no body, so a claim proved with it holds for every value. -/
opaque Config.powerOnPixel (draw i : Nat) : Word

end Sys2Proof
end

