-- ==== Sys2Proof/Machine/Access.lean ====
section
/-! DEFINITION. What the outside world can do to the block: a host access to its register window
(spec/20_memory.md R50-R53) or the reset input (spec/70_reset_and_hazards.md R200). -/

namespace Sys2Proof.Machine

/-- The width of a host access; only `word` is inside the interface (R51). -/
inductive Width where
  | byte
  | half
  | word
deriving DecidableEq, Repr

/-- One host bus access, at a byte address of the host bus. -/
inductive Access where
  | read (addr : Nat) (width : Width)
  | write (addr : Nat) (width : Width) (value : Word)
deriving DecidableEq, Repr

/-- What the model's stream of events holds: accesses in the host's order, and resets between them. -/
inductive Event where
  | access (a : Access)
  | reset
deriving DecidableEq, Repr

def Access.addr : Access → Nat
  | .read a _ => a
  | .write a _ _ => a

def Access.width : Access → Width
  | .read _ w => w
  | .write _ w _ => w

/-- The address lies in `BASE .. BASE+0xFF` (R50, R53). -/
def Access.inWindow (c : Config) (a : Access) : Bool :=
  decide (c.base ≤ a.addr) && decide (a.addr < c.base + 256)

/-- The offset `off` of an access inside the window (R50). -/
def Access.offset (c : Config) (a : Access) : Nat := a.addr - c.base

/-- The access is one 32-bit word at an offset with `off[1:0] = 0` (R51). -/
def Access.isAlignedWord (c : Config) (a : Access) : Bool :=
  decide (a.width = .word) && decide (a.offset c % 4 = 0)

end Sys2Proof.Machine
end

