-- ==== Sys2Proof/Syntax.lean ====
section
/-! DEFINITION. The commands of the block: one constructor per row of spec/opcode_table.json. A command
word carries no operand (spec/30_encoding.md R83): every operand comes from XY, COLOR and INTEN. -/

namespace Sys2Proof

/-- The ten commands of R85. -/
inductive Instr where
  /-- NOP, R150 -/
  | nop
  /-- COMP.OPAQUE, R121 -/
  | compOpaque
  /-- COMP.BLEND, R122 -/
  | compBlend
  /-- COMP.ADD, R123 -/
  | compAdd
  /-- COMPU.OPAQUE, R131 -/
  | compuOpaque
  /-- COMPU.BLEND, R132 -/
  | compuBlend
  /-- COMPU.ADD, R133 -/
  | compuAdd
  /-- CLR, R152 -/
  | clr
  /-- PWR, R154 -/
  | pwr
  /-- PRD, R156 -/
  | prd
deriving DecidableEq, Repr

end Sys2Proof
end

