-- ==== Sys2Proof/WellFormed.lean ====
section
/-! DEFINITION. What is well formed: a configuration (spec/00_scope.md R6, R7), a host access
(spec/20_memory.md R51, R53) and a command. -/

namespace Sys2Proof

/-- The legal configurations of R6 and R7: `1 <= W, H <= 32767`, BASE a multiple of 256. -/
abbrev Config.Legal (c : Config) : Prop :=
  1 ≤ c.width ∧ c.width ≤ 32767 ∧ 1 ≤ c.height ∧ c.height ≤ 32767 ∧ c.base % 256 = 0

/-- Building a configuration: an illegal one is refused at construction (R7). -/
def Config.build? (width height : Nat) (packing : Packing) (lerpForm : LerpForm) (base : Nat) :
    Option Config :=
  let c : Config := { width, height, packing, lerpForm, base }
  if c.Legal then some c else none

/-- An access inside the interface: in the window, one aligned 32-bit word (R51, R53). -/
def Machine.Access.wellFormed (c : Config) (a : Machine.Access) : Bool :=
  a.inWindow c && a.isAlignedWord c

/-- A command carries no operand (R83), so no term of `Instr` is ill formed: what can be wrong with a
command word is refused by the decoder (R84). -/
def Instr.wellFormed : Instr → Bool
  | .nop => true
  | .compOpaque => true
  | .compBlend => true
  | .compAdd => true
  | .compuOpaque => true
  | .compuBlend => true
  | .compuAdd => true
  | .clr => true
  | .pwr => true
  | .prd => true

end Sys2Proof
end

