-- ==== Sys2Proof/Decode.lean ====
section
/-! DEFINITION. Decoding of the 32-bit command word (spec/30_encoding.md R80-R86), the byte lanes a word
travels on (spec/20_memory.md R57), and the encoder (R85, R89). -/

namespace Sys2Proof

/-- Why a word is ILLEGAL, the three cases of R86, and a byte string too short to hold a word. -/
inductive DecodeError where
  /-- `c[31:6] != 0` (R86 item 1) -/
  | reservedBits
  /-- `OP` in 0x6..0xF (R86 item 2) -/
  | reservedOp
  /-- COMP or COMPU with `MODE = 0b11` (R86 item 3) -/
  | reservedMode
  /-- fewer than four byte lanes: no command word is there -/
  | truncated
deriving DecidableEq, Repr

/-- `c[3:0]` (R80). -/
def opField (c : Word) : Nat := (c.extractLsb' 0 4).toNat

/-- `c[5:4]` (R80, R81). -/
def modeField (c : Word) : Nat := (c.extractLsb' 4 2).toNat

/-- `c[31:6]` (R80). -/
def rsvField (c : Word) : Nat := (c.extractLsb' 6 26).toNat

/-- The MODE field selects the draw mode of COMP and COMPU; 0b11 is reserved (R81, R84). -/
def decodeMode (mode : Nat) (opaqueForm blendForm addForm : Instr) : Except DecodeError Instr :=
  match mode with
  | 0 => .ok opaqueForm
  | 1 => .ok blendForm
  | 2 => .ok addForm
  | _ => .error .reservedMode

/-- `decode(c)` of R84: total, every word is exactly one command or ILLEGAL. NOP, CLR, PWR and PRD
ignore MODE. -/
def decode (c : Word) : Except DecodeError Instr :=
  if rsvField c ≠ 0 then .error .reservedBits
  else
    match opField c with
    | 0 => .ok .nop
    | 1 => decodeMode (modeField c) .compOpaque .compBlend .compAdd
    | 2 => decodeMode (modeField c) .compuOpaque .compuBlend .compuAdd
    | 3 => .ok .clr
    | 4 => .ok .pwr
    | 5 => .ok .prd
    | _ => .error .reservedOp

/-- Lane `k` carries bits `[8k+7 : 8k]` (R57). -/
def lane (w : Word) (k : Nat) : Byte := w.extractLsb' (8 * k) 8

/-- The word on four byte lanes, lane 0 first: little-endian (R57). -/
def ofLanes (b0 b1 b2 b3 : Byte) : Word := b3 ++ b2 ++ b1 ++ b0

/-- Decoding from byte lanes, lowest address first; answers the command and the bytes after it. -/
def decodeBytes : List Byte → Except DecodeError (Instr × List Byte)
  | b0 :: b1 :: b2 :: b3 :: rest =>
    match decode (ofLanes b0 b1 b2 b3) with
    | .ok i => .ok (i, rest)
    | .error e => .error e
  | _ => .error .truncated

/-- The word of each command, the "match" column of R85; for NOP, CLR, PWR and PRD it is the spelling
with `MODE = 0`, which R89's mnemonics use (log 14). -/
def encode : Instr → Word
  | .nop => 0x00000000
  | .compOpaque => 0x00000001
  | .compBlend => 0x00000011
  | .compAdd => 0x00000021
  | .compuOpaque => 0x00000002
  | .compuBlend => 0x00000012
  | .compuAdd => 0x00000022
  | .clr => 0x00000003
  | .pwr => 0x00000004
  | .prd => 0x00000005

/-- The "mask" column of R85: which bits of a word the row looks at. -/
def opcodeMask : Instr → Word
  | .nop => 0xFFFFFFCF
  | .compOpaque => 0xFFFFFFFF
  | .compBlend => 0xFFFFFFFF
  | .compAdd => 0xFFFFFFFF
  | .compuOpaque => 0xFFFFFFFF
  | .compuBlend => 0xFFFFFFFF
  | .compuAdd => 0xFFFFFFFF
  | .clr => 0xFFFFFFCF
  | .pwr => 0xFFFFFFCF
  | .prd => 0xFFFFFFCF

/-- The command the decoder reads from a table row's bits: one 32-bit word, on byte lanes as the bus
carries it (R57). A row longer than 32 bits does not exist. -/
def decodeTableWord (nbits w : Nat) : Option Instr :=
  let c : Word := BitVec.ofNat 32 w
  if nbits ≤ 32 then
    match decodeBytes [lane c 0, lane c 1, lane c 2, lane c 3] with
    | .ok (i, _) => some i
    | .error _ => none
  else none

end Sys2Proof
end

