-- ==== Sys2Proof/Machine/State.lean ====
section
/-! DEFINITION. The state of the block as plain data (spec/10_state.md R20), why a step can stop, and
the state after reset (spec/70_reset_and_hazards.md R201). -/

namespace Sys2Proof.Machine

/-- The framebuffer: pixel index and 32-bit word, indices strictly rising. The unit is the pixel word,
because the block has no byte view of any state (R57). A pixel that is not listed has not been written
since the last reset (log 4). -/
abbrev Memory := List (Nat × Word)

/-- The machine. The first seven fields are R20's architectural state; then the configuration; the
last three are the model's own. -/
structure State where
  /-- operand register XY (R24) -/
  xy       : Word
  /-- operand register COLOR (R25) -/
  color    : Word
  /-- operand register INTEN, signed Q16.16 (R26) -/
  inten    : Word
  /-- STATUS: bit 0 is ILL, bits 31:1 are reserved and read 0 (R27; log 11) -/
  status   : Word
  /-- RESULT: the word of the last PRD (R28) -/
  result   : Word
  /-- FBIDX: the readout index (R30) -/
  fbidx    : Word
  /-- FB: the pixels written since the last reset (R32) -/
  fb       : Memory
  /-- the configuration; R35 says it is not state, and no step changes it (log 1) -/
  config   : Config
  /-- MODEL'S OWN: the events the host has yet to present, oldest first (R22, R60; log 5) -/
  pending  : List Event
  /-- MODEL'S OWN: the words host reads have returned, oldest first (R55; log 7) -/
  returned : List Word
  /-- MODEL'S OWN: which draw of power-on contents the unwritten pixels hold (R201; log 3) -/
  draws    : Nat
deriving DecidableEq, Repr

/-- What the machine reports by stopping. -/
inductive Fault where
  /-- Raised by COMPU (R130) with a coordinate out of bounds: UNDEFINED by R183, where "A model
  faults" (log 9). SAFE: the model stops where the hardware may do anything to the framebuffer. -/
  | unboundedCompositeIndex
deriving DecidableEq, Repr

/-- What the model gives no meaning to. -/
inductive Refusal where
  /-- Raised by an arm of exec whose command has no meaning yet. No arm raises it now. SAFE. -/
  | notModelled (mnemonic : String)
  /-- Raised by a host access at an address outside BASE..BASE+0xFF: what it reaches is the
  platform's (R53, I8; log 8). SAFE: the model stops. -/
  | outsideWindow
  /-- Raised by a host access in the window that is not one aligned 32-bit word: UNDEFINED, "A model
  refuses such an access" (R51, I2; log 8). SAFE: the model stops. -/
  | unsupportedAccess
deriving DecidableEq, Repr

/-- The state R201 gives after a reset, for a configuration and a draw of framebuffer contents. -/
def State.powerUp (c : Config) (draw : Nat) : State :=
  { xy := 0, color := 0, inten := 0, status := 0, result := 0, fbidx := 0, fb := [],
    config := c, pending := [], returned := [], draws := draw }

/-- The machine right after its first reset: R201, in the configuration of log 2. -/
def State.reset : State := State.powerUp Config.initial 0

end Sys2Proof.Machine
end

