-- ==== Sys2Proof/Machine/Flags.lean ====
section
/-! DEFINITION. The one flag of the block, STATUS.ILL (spec/10_state.md R27, R33): how it is read, set
and cleared. -/

namespace Sys2Proof.Machine

/-- ILL is STATUS bit 0 (R27). -/
def illBit (status : Word) : Bool := status.getLsbD 0

def State.ill (s : State) : Bool := illBit s.status

/-- ILL <- 1; no other bit changes (R181). -/
def setIll (status : Word) : Word := status ||| 0x00000001

/-- ILL <- 0; no other bit changes (R56). -/
def clearIll (status : Word) : Word := status &&& 0xFFFFFFFE

/-- A host write of `v` to STATUS clears ILL when `v[0] = 1` and otherwise does nothing; bits 31:1 of
`v` are ignored (R56). -/
def writeOneToClear (status v : Word) : Word :=
  if v.getLsbD 0 then clearIll status else status

/-- What a host read of STATUS returns: `{31'b0, STATUS.ILL}` (R55). -/
def statusRead (status : Word) : Word := 0#31 ++ BitVec.ofBool (illBit status)

end Sys2Proof.Machine
end

