-- ==== Sys2Proof/Machine/Ops.lean ====
section
/-! DEFINITION. The named operations over framebuffer and registers, the illegal-command condition and
the reset input. -/

namespace Sys2Proof.Machine

/-! ### The framebuffer as data -/

/-- The word listed for pixel `i`, if there is one. -/
def Memory.find? : Memory → Nat → Option Word
  | [], _ => none
  | (j, w) :: m, i => if j = i then some w else Memory.find? m i

/-- `FB[i]` (R10): the word written last, or the free value where nothing has written since the
`draw`-th reset (R201; log 3). Callers ask only for `i < N`. -/
def Memory.read (draw : Nat) (m : Memory) (i : Nat) : Word :=
  match Memory.find? m i with
  | some w => w
  | none => Config.powerOnPixel draw i

/-- `FB[i] <- w` (R10), keeping the indices strictly rising. -/
def Memory.write : Memory → Nat → Word → Memory
  | [], i, w => [(i, w)]
  | (j, v) :: m, i, w =>
    if j = i then (i, w) :: m
    else if i < j then (i, w) :: (j, v) :: m
    else (j, v) :: Memory.write m i w

/-- Every pixel of an `n`-pixel framebuffer holds `w` (R152). -/
def Memory.fill (n : Nat) (w : Word) : Memory := (List.range n).map fun i => (i, w)

/-- The canonical form: indices strictly rising and inside `0 .. n-1` (R32). -/
abbrev Memory.wf (n : Nat) (m : Memory) : Prop :=
  (m.map Prod.fst).Pairwise (· < ·) ∧ ∀ i ∈ m.map Prod.fst, i < n

/-! ### Reading and updating the state -/

/-- `FB[i]` of the machine. -/
def State.pixel (s : State) (i : Nat) : Word := Memory.read s.draws s.fb i

/-- `FB[i] <- w` of the machine. -/
def State.setPixel (s : State) (i : Nat) (w : Word) : State :=
  { s with fb := Memory.write s.fb i w }

/-- Every pixel becomes `w`, as one atomic update (R62, R152). -/
def State.fillPixels (s : State) (w : Word) : State :=
  { s with fb := Memory.fill s.config.pixels w }

def State.setXy (s : State) (v : Word) : State := { s with xy := v }
def State.setColor (s : State) (v : Word) : State := { s with color := v }
def State.setInten (s : State) (v : Word) : State := { s with inten := v }
def State.setStatus (s : State) (v : Word) : State := { s with status := v }
def State.setResult (s : State) (v : Word) : State := { s with result := v }
def State.setFbidx (s : State) (v : Word) : State := { s with fbidx := v }

/-- The event stream after the step has taken its first event. -/
def State.setPending (s : State) (l : List Event) : State := { s with pending := l }

/-- A host read returns `v` (R55). -/
def State.answer (s : State) (v : Word) : State := { s with returned := s.returned ++ [v] }

/-! ### The illegal-command condition and reset -/

/-- `raise Illegal(c)` (R181): STATUS.ILL <- 1, no other state changes. It is the block's only
command-level condition with an effect; there is no trap entry or return (R187, R188). -/
def State.raiseIllegal (s : State) : State := s.setStatus (setIll s.status)

/-- The host's W1C write of STATUS, the only recovery action (R56, R188). -/
def State.acknowledge (s : State) (v : Word) : State := s.setStatus (writeOneToClear s.status v)

/-- The reset input (R200): the state of R201, with a fresh draw of framebuffer contents. The host's
further events and the words it has read are outside the block and stay (log 10). -/
def State.takeReset (s : State) : State :=
  { State.powerUp s.config (s.draws + 1) with pending := s.pending, returned := s.returned }

end Sys2Proof.Machine
end

