-- ==== Sys2Proof/Machine/Operands.lean ====
section
/-! DEFINITION. The operand forms: coordinates and intensity (spec/30_encoding.md R83), the bounds test
and the pixel index (spec/10_state.md R32), the channels of a pixel word and their packing
(spec/00_scope.md R11). -/

namespace Sys2Proof.Machine

/-- The source's DrawMode, a closed tag (R81). -/
inductive DrawMode where
  | opaqueMode
  | blendMode
  | additiveMode
deriving DecidableEq, Repr

/-! ### Coordinates and intensity -/

/-- `x = sext_16(XY[15:0])` (R24, R83). -/
def State.x (s : State) : Int := (s.xy.extractLsb' 0 16).toInt

/-- `y = sext_16(XY[31:16])` (R24, R83). -/
def State.y (s : State) : Int := (s.xy.extractLsb' 16 16).toInt

/-- `I = sext_32(INTEN)`; the intensity is `I / 65536` (R26, R83). -/
def State.intensity (s : State) : Int := s.inten.toInt

/-- `0 <= x < W and 0 <= y < H` (R12). -/
abbrev State.InBounds (s : State) : Prop :=
  0 ≤ s.x ∧ s.x < s.config.width ∧ 0 ≤ s.y ∧ s.y < s.config.height

/-- `i = y * W + x`, row-major (R32). It is a pixel index only when the coordinate is in bounds. -/
def State.pixelIndex (s : State) : Nat := (s.y * s.config.width + s.x).toNat

end Sys2Proof.Machine

namespace Sys2Proof

/-! ### Channels (R11) -/

/-- `A(w)`. -/
def Packing.alpha (p : Packing) (w : Word) : Nat :=
  match p with
  | .alphaHigh => (w.extractLsb' 24 8).toNat
  | .alphaLow => (w.extractLsb' 0 8).toNat

/-- `R(w)`. -/
def Packing.red (p : Packing) (w : Word) : Nat :=
  match p with
  | .alphaHigh => (w.extractLsb' 16 8).toNat
  | .alphaLow => (w.extractLsb' 24 8).toNat

/-- `G(w)`. -/
def Packing.green (p : Packing) (w : Word) : Nat :=
  match p with
  | .alphaHigh => (w.extractLsb' 8 8).toNat
  | .alphaLow => (w.extractLsb' 16 8).toNat

/-- `B(w)`. -/
def Packing.blue (p : Packing) (w : Word) : Nat :=
  match p with
  | .alphaHigh => (w.extractLsb' 0 8).toNat
  | .alphaLow => (w.extractLsb' 8 8).toNat

/-- `pack(a, r, g, b)`: each channel is narrowed to its 8 bits. -/
def Packing.pack (p : Packing) (a r g b : Nat) : Word :=
  let u8 (n : Nat) : Byte := BitVec.ofNat 8 n
  match p with
  | .alphaHigh => u8 a ++ u8 r ++ u8 g ++ u8 b
  | .alphaLow => u8 r ++ u8 g ++ u8 b ++ u8 a

end Sys2Proof
end

