-- ==== Sys2Proof/Machine/Composite.lean ====
section
/-! DEFINITION. The compositor (spec/40_composite.md): the shared arithmetic on mathematical integers
(R9, R100-R108) and the commands COMP and COMPU (R120-R133). -/

namespace Sys2Proof.Machine

/-! ### Shared arithmetic -/

/-- Intensity conditioning (R100): `none` is the rule's NONE. -/
def condIntensity (i : Int) : Option Nat :=
  if i ≤ 0 then none else if 65536 < i then some 65536 else some i.toNat

/-- `round(v * intensity)`, ties up (R101). -/
def scale8 (v ic : Nat) : Nat := (v * ic + 32768) >>> 16

/-- OPAQUE weight (R102). -/
def eaOpaque (ic : Nat) : Nat := scale8 255 ic

/-- BLEND weight (R103). -/
def eaBlend (c : Config) (src : Word) (ic : Nat) : Nat := scale8 (c.packing.alpha src) ic

/-- Colour interpolation of one channel, in the configured integer form (R104). -/
def lerp8 (form : LerpForm) (s d ea : Nat) : Nat :=
  match form with
  | .weightedSum => (s * ea + d * (255 - ea)) / 255
  | .deltaTrunc =>
    let t : Int := ((s : Int) - d) * ea
    (d + t.sign * ((t.natAbs / 255 : Nat) : Int)).toNat

/-- Alpha accumulation (R105). -/
def alpha8 (ea da : Nat) : Nat := ea + da * (255 - ea) / 255

/-- Over-composite of one pixel with weight `ea` (R106). -/
def overPixel (c : Config) (src dst : Word) (ea : Nat) : Word :=
  c.packing.pack (alpha8 ea (c.packing.alpha dst))
    (lerp8 c.lerpForm (c.packing.red src) (c.packing.red dst) ea)
    (lerp8 c.lerpForm (c.packing.green src) (c.packing.green dst) ea)
    (lerp8 c.lerpForm (c.packing.blue src) (c.packing.blue dst) ea)

/-- Saturating addition of one channel (R107). -/
def add8 (s d ic : Nat) : Nat := min 255 (d + scale8 s ic)

/-- Additive composite of one pixel; the destination's alpha stays (R107). -/
def additive (c : Config) (src dst : Word) (ic : Nat) : Word :=
  c.packing.pack (c.packing.alpha dst)
    (add8 (c.packing.red src) (c.packing.red dst) ic)
    (add8 (c.packing.green src) (c.packing.green dst) ic)
    (add8 (c.packing.blue src) (c.packing.blue dst) ic)

/-- `over` of R106 under the test "if ea = 0 then return NONE" of R108. -/
def overUnlessZero (c : Config) (src dst : Word) (ea : Nat) : Option Word :=
  if ea = 0 then none else some (overPixel c src dst ea)

/-- The compositing function (R108): the new destination word, or `none` for no change. -/
def composite (c : Config) (mode : DrawMode) (src dst : Word) (i : Int) : Option Word :=
  match condIntensity i with
  | none => none
  | some ic =>
    match mode with
    | .opaqueMode => overUnlessZero c src dst (eaOpaque ic)
    | .blendMode => overUnlessZero c src dst (eaBlend c src ic)
    | .additiveMode => some (additive c src dst ic)

/-! ### The common bodies -/

/-- `r := composite(mode, COLOR, FB[i], sext_32(INTEN)); if r != NONE then FB[i] <- r`, at the pixel
XY names (R120, R130). -/
def compositePixel (mode : DrawMode) (s : State) : State :=
  match composite s.config mode s.color (s.pixel s.pixelIndex) s.intensity with
  | none => s
  | some w => s.setPixel s.pixelIndex w

/-- The body of COMP: out of bounds is a no-op (R120). -/
def compBody (mode : DrawMode) (s : State) : Host.Outcome State Fault Refusal :=
  if s.InBounds then .next (compositePixel mode s) else .next s

/-- The body of COMPU: out of bounds is undefined, whatever intensity and colour (R130, R183; log 9). -/
def compuBody (mode : DrawMode) (s : State) : Host.Outcome State Fault Refusal :=
  if s.InBounds then .next (compositePixel mode s) else .fault .unboundedCompositeIndex

/-! ### The commands -/

/-- COMP.OPAQUE (R121). -/
def execCompOpaque (s : State) : Host.Outcome State Fault Refusal := compBody .opaqueMode s

/-- COMP.BLEND (R122). -/
def execCompBlend (s : State) : Host.Outcome State Fault Refusal := compBody .blendMode s

/-- COMP.ADD (R123). -/
def execCompAdd (s : State) : Host.Outcome State Fault Refusal := compBody .additiveMode s

/-- COMPU.OPAQUE (R131). -/
def execCompuOpaque (s : State) : Host.Outcome State Fault Refusal := compuBody .opaqueMode s

/-- COMPU.BLEND (R132). -/
def execCompuBlend (s : State) : Host.Outcome State Fault Refusal := compuBody .blendMode s

/-- COMPU.ADD (R133). -/
def execCompuAdd (s : State) : Host.Outcome State Fault Refusal := compuBody .additiveMode s

end Sys2Proof.Machine
end

