-- ==== Sys2Proof/Machine/Framebuffer.lean ====
section
/-! DEFINITION. The framebuffer commands NOP, CLR, PWR and PRD (spec/41_framebuffer.md R150-R156). -/

namespace Sys2Proof.Machine

/-- NOP (R150): no state changes; ILL is not cleared. -/
def execNop (s : State) : Host.Outcome State Fault Refusal := .next s

/-- CLR's word: COLOR with its alpha forced to 255 (R152). -/
def clearWord (c : Config) (color : Word) : Word :=
  c.packing.pack 255 (c.packing.red color) (c.packing.green color) (c.packing.blue color)

/-- CLR (R152). -/
def execClr (s : State) : Host.Outcome State Fault Refusal :=
  .next (s.fillPixels (clearWord s.config s.color))

/-- PWR (R154): COLOR as given; out of bounds is a no-op. -/
def execPwr (s : State) : Host.Outcome State Fault Refusal :=
  if s.InBounds then .next (s.setPixel s.pixelIndex s.color) else .next s

/-- PRD (R156): out of bounds RESULT is 0. -/
def execPrd (s : State) : Host.Outcome State Fault Refusal :=
  if s.InBounds then .next (s.setResult (s.pixel s.pixelIndex)) else .next (s.setResult 0)

end Sys2Proof.Machine
end

