-- ==== Sys2Proof/Machine/Dispatch.lean ====
section
/-! DEFINITION. One arm per command of spec/opcode_table.json, each one direct call of its meaning. -/

namespace Sys2Proof.Machine

def exec (i : Instr) (s : State) : Host.Outcome State Fault Refusal :=
  match i with
  | .nop => Sys2Proof.Machine.execNop s
  | .compOpaque => Sys2Proof.Machine.execCompOpaque s
  | .compBlend => Sys2Proof.Machine.execCompBlend s
  | .compAdd => Sys2Proof.Machine.execCompAdd s
  | .compuOpaque => Sys2Proof.Machine.execCompuOpaque s
  | .compuBlend => Sys2Proof.Machine.execCompuBlend s
  | .compuAdd => Sys2Proof.Machine.execCompuAdd s
  | .clr => Sys2Proof.Machine.execClr s
  | .pwr => Sys2Proof.Machine.execPwr s
  | .prd => Sys2Proof.Machine.execPrd s

end Sys2Proof.Machine
end

