-- ==== Sys2Proof/Machine/Bus.lean ====
section
/-! DEFINITION. The host interface (spec/20_memory.md R50-R60): the register map, what a read returns and
what a write does, and one event as one atomic step. -/

namespace Sys2Proof.Machine

/-- The named offsets of R52. -/
inductive Reg where
  | cmd
  | xy
  | color
  | inten
  | status
  | result
  | dim
  | fbidx
  | fbdata
deriving DecidableEq, Repr

/-- The register map of R52. -/
def Reg.offset : Reg → Nat
  | .cmd => 0x00
  | .xy => 0x04
  | .color => 0x08
  | .inten => 0x0C
  | .status => 0x10
  | .result => 0x14
  | .dim => 0x18
  | .fbidx => 0x1C
  | .fbdata => 0x20

/-- The register at an aligned offset; `none` is a reserved offset (R52, R53). -/
def regAt (off : Nat) : Option Reg :=
  match off with
  | 0x00 => some .cmd
  | 0x04 => some .xy
  | 0x08 => some .color
  | 0x0C => some .inten
  | 0x10 => some .status
  | 0x14 => some .result
  | 0x18 => some .dim
  | 0x1C => some .fbidx
  | 0x20 => some .fbdata
  | _ => none

/-- DIM: `{H[15:0], W[15:0]}` (R29, R55). -/
def dimWord (c : Config) : Word := BitVec.ofNat 16 c.height ++ BitVec.ofNat 16 c.width

/-- The raw readout port (R58): the word at FBIDX and FBIDX advanced with wrap, or 0 and no change. -/
def readFbdata (s : State) : Word × State :=
  if s.fbidx.toNat < s.config.pixels then
    (s.pixel s.fbidx.toNat,
      s.setFbidx (BitVec.ofNat 32 ((s.fbidx.toNat + 1) % s.config.pixels)))
  else (0, s)

/-- A host read (R55): the word it returns and the state after it. Only FBDATA has a side effect. -/
def hostRead (r : Option Reg) (s : State) : Word × State :=
  match r with
  | some .cmd => (0, s)
  | some .xy => (s.xy, s)
  | some .color => (s.color, s)
  | some .inten => (s.inten, s)
  | some .status => (statusRead s.status, s)
  | some .result => (s.result, s)
  | some .dim => (dimWord s.config, s)
  | some .fbidx => (s.fbidx, s)
  | some .fbdata => readFbdata s
  | none => (0, s)

/-- A CMD write executes the command, or raises the illegal-command condition (R23, R56, R84). -/
def command (c : Word) (s : State) : Host.Outcome State Fault Refusal :=
  match decode c with
  | .ok i => exec i s
  | .error _ => .next s.raiseIllegal

/-- A host write of `v` (R56); a write to a read-only or reserved offset is ignored (R53). -/
def hostWrite (r : Option Reg) (v : Word) (s : State) : Host.Outcome State Fault Refusal :=
  match r with
  | some .cmd => command v s
  | some .xy => .next (s.setXy v)
  | some .color => .next (s.setColor v)
  | some .inten => .next (s.setInten v)
  | some .status => .next (s.acknowledge v)
  | some .result => .next s
  | some .dim => .next s
  | some .fbidx => .next (s.setFbidx v)
  | some .fbdata => .next s
  | none => .next s

/-- An aligned word access inside the window. -/
def acceptedAccess (a : Access) (s : State) : Host.Outcome State Fault Refusal :=
  let r := regAt (a.offset s.config)
  match a with
  | .read _ _ => .next ((hostRead r s).2.answer (hostRead r s).1)
  | .write _ _ v => hostWrite r v s

/-- One host access. Outside the window it is the platform's (R53, I8); in the window anything but one
aligned 32-bit word is refused (R51). The order of the two refusals is the model's (log 8). -/
def hostAccess (a : Access) (s : State) : Host.Outcome State Fault Refusal :=
  if a.inWindow s.config = false then .refused .outsideWindow
  else if a.isAlignedWord s.config = false then .refused .unsupportedAccess
  else acceptedAccess a s

/-- One event, complete before the next (R60, R62, R200). -/
def takeEvent (e : Event) (s : State) : Host.Outcome State Fault Refusal :=
  match e with
  | .access a => hostAccess a s
  | .reset => .next s.takeReset

/-- The host write that issues the command word `c` (R56). -/
def commandEvent (c : Config) (w : Word) : Event := .access (.write (c.base + Reg.cmd.offset) .word w)

end Sys2Proof.Machine
end

