-- ==== Sys2Proof/Machine/Step.lean ====
section
/-! DEFINITION. One step: the host presents its next event (spec/20_memory.md R60), or nothing happens. -/

namespace Sys2Proof.Machine

/-- The block acts only when the host does (R22, R34): the oldest pending event is taken whole; with
none pending the step changes nothing (log 6). -/
def step (s : State) : Host.Outcome State Fault Refusal :=
  match s.pending with
  | [] => .next s
  | e :: rest => takeEvent e (s.setPending rest)

/-- The next event becomes the CMD write of the word `w`; the rest of the stream stays behind it
(log 5). The table gives every command all its 32 bits, so there are no bits above `nbits`. -/
def State.withFetchWord (s : State) (_nbits w : Nat) : State :=
  s.setPending (commandEvent s.config (BitVec.ofNat 32 w) :: s.pending)

end Sys2Proof.Machine
end

