-- ==== Sys2Proof/Machine/Asm.lean ====
section
/-! DEFINITION. The assembler notation of spec/30_encoding.md R88-R90: bus-level statements, value
literals and pseudo-instructions, expanded into the events the host presents. It is notation only: no
part of the machine depends on it (log 16). -/

namespace Sys2Proof.Machine

/-- A value literal: a decimal or hexadecimal word, or a negative decimal standing for its
two's-complement word (R88). -/
def valueLiteral (v : Int) : Option Word :=
  if -2147483648 ≤ v ∧ v ≤ 4294967295 then some (BitVec.ofInt 32 v) else none

/-- The literal `<d>q` with `d = num / 10^places`: the word `d * 65536`, accepted only when that is an
integer in the s32 range (R88). -/
def qLiteral (num : Int) (places : Nat) : Option Word :=
  let scaled := num * 65536
  let den : Int := 10 ^ places
  if scaled % den = 0 ∧ -2147483648 ≤ scaled / den ∧ scaled / den ≤ 2147483647 then
    some (BitVec.ofInt 32 (scaled / den))
  else none

/-- `wr <reg>, <value>` at an offset from BASE (R88). -/
def wr (c : Config) (off : Nat) (v : Word) : Event := .access (.write (c.base + off) .word v)

/-- `rd <reg>` at an offset from BASE (R88). -/
def rd (c : Config) (off : Nat) : Event := .access (.read (c.base + off) .word)

/-- A command mnemonic: one `wr CMD` of its word (R89). -/
def mnemonic (c : Config) (i : Instr) : Event := commandEvent c (encode i)

/-- `xy(x, y)`: two coordinates packed into the XY word (R90). -/
def packXy (x y : Int) : Word := BitVec.ofInt 16 y ++ BitVec.ofInt 16 x

/-- The pseudo-instructions of R90. -/
inductive Pseudo where
  | blend (mode : DrawMode) (x y : Int) (color inten : Word)
  | blendu (mode : DrawMode) (x y : Int) (color inten : Word)
  | clear (color : Word)
  | setpx (x y : Int) (color : Word)
  | getpx (x y : Int)
  | readout (i : Word) (n : Nat)
  | ackerr
deriving DecidableEq, Repr

/-- The checked composite command of a draw mode (R81, R89). -/
def compOf : DrawMode → Instr
  | .opaqueMode => .compOpaque
  | .blendMode => .compBlend
  | .additiveMode => .compAdd

/-- The unchecked composite command of a draw mode (R81, R89). -/
def compuOf : DrawMode → Instr
  | .opaqueMode => .compuOpaque
  | .blendMode => .compuBlend
  | .additiveMode => .compuAdd

/-- The operand writes of BLEND and BLENDU (R90). -/
def operandWrites (c : Config) (x y : Int) (color inten : Word) : List Event :=
  [wr c Reg.xy.offset (packXy x y), wr c Reg.color.offset color, wr c Reg.inten.offset inten]

/-- The full expansion of a pseudo-instruction (R90). -/
def Pseudo.expand (c : Config) : Pseudo → List Event
  | .blend m x y color inten => operandWrites c x y color inten ++ [mnemonic c (compOf m)]
  | .blendu m x y color inten => operandWrites c x y color inten ++ [mnemonic c (compuOf m)]
  | .clear color => [wr c Reg.color.offset color, mnemonic c .clr]
  | .setpx x y color =>
    [wr c Reg.xy.offset (packXy x y), wr c Reg.color.offset color, mnemonic c .pwr]
  | .getpx x y =>
    [wr c Reg.xy.offset (packXy x y), mnemonic c .prd, rd c Reg.result.offset]
  | .readout i n => wr c Reg.fbidx.offset i :: List.replicate n (rd c Reg.fbdata.offset)
  | .ackerr => [wr c Reg.status.offset 1]

/-- `rep n (body)`: the body written out `n` times (R90). -/
def rep (n : Nat) (body : List Event) : List Event := (List.replicate n body).flatten

end Sys2Proof.Machine
end

