-- ==== Sys2Proof/Safety.lean ====
section
/-! DEFINITION. The terms claims are stated in: the invariant of the machine, what a step sees, where a
step may stop, and the channel equations of spec/40_composite.md as relations between words. -/

namespace Sys2Proof.Machine

/-- The invariant: a legal configuration (R6, R7), a framebuffer in canonical form inside `0 .. N-1`
(R32), and STATUS bits 31:1 zero (R27). -/
def State.Inv (s : State) : Prop :=
  s.config.Legal ∧ Memory.wf s.config.pixels s.fb ∧ s.status &&& 0xFFFFFFFE = 0

/-- The next event of `s` is `e`. -/
def State.Sees (s : State) (e : Event) : Prop := s.pending.head? = some e

/-- The state with its next event taken from the stream and nothing else done. -/
def State.popped (s : State) : State := s.setPending s.pending.tail

/-- The next event of `s` is a word read at offset `off` from BASE. -/
def State.SeesRead (s : State) (off : Nat) : Prop := s.Sees (rd s.config off)

/-- The next event of `s` is a word write of `v` at offset `off` from BASE. -/
def State.SeesWrite (s : State) (off : Nat) (v : Word) : Prop := s.Sees (wr s.config off v)

/-- The next event of `s` is a CMD write of a word that decodes to `i`. -/
def State.SeesCommand (s : State) (i : Instr) : Prop :=
  ∃ c : Word, s.Sees (commandEvent s.config c) ∧ decode c = .ok i

/-- The next event of `s` is a CMD write of an illegal word. -/
def State.SeesIllegal (s : State) : Prop :=
  ∃ (c : Word) (e : DecodeError), s.Sees (commandEvent s.config c) ∧ decode c = .error e

/-- The intensity after clamping to 1.0, for an intensity above 0 (R100). -/
def State.clampedIntensity (s : State) : Nat := (min s.intensity 65536).toNat

/-- `round(v * ic / 65536)`, ties up, as a quotient (R101). -/
def roundedProduct (v ic : Nat) : Nat := (v * ic + 32768) / 65536

/-- One colour channel after an over-composite with weight `ea` (R104), the second form with a
division that truncates toward zero. -/
def LerpedChannel (form : LerpForm) (s d ea new : Nat) : Prop :=
  match form with
  | .weightedSum => new = (s * ea + d * (255 - ea)) / 255
  | .deltaTrunc => (new : Int) = d + (((s : Int) - d) * ea).tdiv 255

/-- The four channels of `new` are those of the over-composite of `src` onto `dst` with weight `ea`
(R105, R106). -/
def OverChannels (c : Config) (src dst : Word) (ea : Nat) (new : Word) : Prop :=
  c.packing.alpha new = ea + c.packing.alpha dst * (255 - ea) / 255 ∧
  LerpedChannel c.lerpForm (c.packing.red src) (c.packing.red dst) ea (c.packing.red new) ∧
  LerpedChannel c.lerpForm (c.packing.green src) (c.packing.green dst) ea (c.packing.green new) ∧
  LerpedChannel c.lerpForm (c.packing.blue src) (c.packing.blue dst) ea (c.packing.blue new)

/-- The four channels of `new` are those of the additive composite (R107). -/
def AddChannels (c : Config) (src dst : Word) (ic : Nat) (new : Word) : Prop :=
  c.packing.alpha new = c.packing.alpha dst ∧
  c.packing.red new = min 255 (c.packing.red dst + roundedProduct (c.packing.red src) ic) ∧
  c.packing.green new = min 255 (c.packing.green dst + roundedProduct (c.packing.green src) ic) ∧
  c.packing.blue new = min 255 (c.packing.blue dst + roundedProduct (c.packing.blue src) ic)

/-- `t` is `s` with at most the one pixel `i` changed. -/
def OnlyPixelChanged (s t : State) (i : Nat) : Prop :=
  t = { s with fb := t.fb } ∧ ∀ j, j ≠ i → t.pixel j = s.pixel j

/-- The commands that composite onto one pixel. -/
def Instr.IsComp (i : Instr) : Prop := i = .compOpaque ∨ i = .compBlend ∨ i = .compAdd

/-- The unchecked forms. -/
def Instr.IsCompu (i : Instr) : Prop := i = .compuOpaque ∨ i = .compuBlend ∨ i = .compuAdd

end Sys2Proof.Machine
end

