-- ==== Sys2Proof/Certificates/Slice0/Obligations.lean ====
section
/-! DEFINITION. The statements for the provers, one per obligation of OBLIGATIONS.json. Each docstring
names the rule of spec/ it formalises. -/

open Sys2Proof Sys2Proof.Machine

/-! ### Decoding and encoding -/

/-- R84 against R85: the decoder by fields and the table of match and mask agree on all words, and no
word selects two rows. -/
def Obligations.DecodeSelectsRowByMatchAndMask : Prop :=
  (∀ (c : Word) (i : Instr), decode c = .ok i ↔ c &&& opcodeMask i = encode i) ∧
  ∀ (c : Word) (i j : Instr), c &&& opcodeMask i = encode i → c &&& opcodeMask j = encode j → i = j

/-- R89, R57: every command decodes back from its mnemonic's word, and from that word's byte lanes. -/
def Obligations.EncodedCommandDecodesBack : Prop :=
  ∀ (i : Instr) (rest : List Byte), i.wellFormed = true →
    decode (encode i) = .ok i ∧
    decodeBytes (lane (encode i) 0 :: lane (encode i) 1 :: lane (encode i) 2 :: lane (encode i) 3 :: rest) =
      .ok (i, rest)

/-- R85: a few words written out from the table, two of each family, and illegal neighbours. -/
def Obligations.TableWordsDecode : Prop :=
  decode 0x00000001 = .ok .compOpaque ∧ decode 0x00000021 = .ok .compAdd ∧
  decode 0x00000012 = .ok .compuBlend ∧ decode 0x00000033 = .ok .clr ∧ decode 0x00000004 = .ok .pwr ∧
  decode 0x00000031 = .error .reservedMode ∧ decode 0x0000000F = .error .reservedOp ∧
  decode 0x80000003 = .error .reservedBits

/-- R86, R181: exactly the reserved encodings are illegal, and the CMD write of an illegal word sets
STATUS bit 0 and changes nothing else. -/
def Obligations.IllegalWordsOnlySetIll : Prop :=
  (∀ c : Word, (∃ e, decode c = .error e) ↔
    (c.toNat / 64 ≠ 0 ∨ 6 ≤ c.toNat % 16 ∨
      ((c.toNat % 16 = 1 ∨ c.toNat % 16 = 2) ∧ c.toNat / 16 % 4 = 3))) ∧
  (∀ c d : Word, c.toNat / 64 = 0 → d.toNat / 64 = 0 → c.toNat % 16 = d.toNat % 16 →
    (c.toNat % 16 = 0 ∨ 3 ≤ c.toNat % 16) → decode c = decode d) ∧
  ∀ (s : State) (c : Word) (rest : List Event),
    s.pending = .access (.write s.config.base .word c) :: rest → (∃ e, decode c = .error e) →
      step s = .next { s with pending := rest, status := s.status ||| 1 }

/-- R57: lane `k` carries bits 8k+7..8k, and the four lanes are the whole word. -/
def Obligations.LanesAreLittleEndian : Prop :=
  ∀ w : Word, ofLanes (lane w 0) (lane w 1) (lane w 2) (lane w 3) = w ∧
    ∀ k, k < 4 → (lane w k).toNat = w.toNat / 2 ^ (8 * k) % 256

/-! ### Configuration, operands and geometry -/

/-- R7: a configuration with a size outside 1..32767 is refused at construction (as is, by R6, a BASE
that is no multiple of 256), and a legal one has at most 1073676289 pixels. -/
def Obligations.IllegalConfigurationIsRefused : Prop :=
  (∀ W H p l b, (W = 0 ∨ H = 0 ∨ 32767 < W ∨ 32767 < H ∨ b % 256 ≠ 0) → Config.build? W H p l b = none) ∧
  (∀ W H p l b, 1 ≤ W → W ≤ 32767 → 1 ≤ H → H ≤ 32767 → b % 256 = 0 →
    Config.build? W H p l b = some ⟨W, H, p, l, b⟩) ∧
  ∀ c : Config, c.Legal → c.pixels = c.width * c.height ∧ c.pixels ≤ 1073676289 ∧ c.pixels < 2 ^ 30

/-- R24, R26, R83: the operand readings as numbers: two signed halves of XY, and INTEN signed. -/
def Obligations.OperandsReadSigned : Prop :=
  ∀ s : State,
    s.x = (if s.xy.toNat % 65536 < 32768 then (s.xy.toNat % 65536 : Int) else s.xy.toNat % 65536 - 65536) ∧
    s.y = (if s.xy.toNat / 65536 < 32768 then (s.xy.toNat / 65536 : Int) else s.xy.toNat / 65536 - 65536) ∧
    s.intensity = (if s.inten.toNat < 2147483648 then (s.inten.toNat : Int) else s.inten.toNat - 4294967296)

/-- R32: an in-bounds coordinate names a pixel of the array, at column `i mod W` and row `i div W`. -/
def Obligations.PixelIndexIsRowMajor : Prop :=
  ∀ s : State, s.InBounds →
    s.pixelIndex < s.config.pixels ∧
    ((s.pixelIndex % s.config.width : Nat) : Int) = s.x ∧
    ((s.pixelIndex / s.config.width : Nat) : Int) = s.y

/-- R11: where the channels of a pixel word stand under each packing, and the word `pack` builds. -/
def Obligations.ChannelsStandWherePackingSays : Prop :=
  (∀ w : Word,
    Packing.alphaHigh.alpha w = w.toNat / 2 ^ 24 ∧ Packing.alphaHigh.red w = w.toNat / 2 ^ 16 % 256 ∧
    Packing.alphaHigh.green w = w.toNat / 2 ^ 8 % 256 ∧ Packing.alphaHigh.blue w = w.toNat % 256 ∧
    Packing.alphaLow.red w = w.toNat / 2 ^ 24 ∧ Packing.alphaLow.green w = w.toNat / 2 ^ 16 % 256 ∧
    Packing.alphaLow.blue w = w.toNat / 2 ^ 8 % 256 ∧ Packing.alphaLow.alpha w = w.toNat % 256) ∧
  (∀ a r g b, a < 256 → r < 256 → g < 256 → b < 256 →
    (Packing.alphaHigh.pack a r g b).toNat = a * 2 ^ 24 + r * 2 ^ 16 + g * 2 ^ 8 + b ∧
    (Packing.alphaLow.pack a r g b).toNat = r * 2 ^ 24 + g * 2 ^ 16 + b * 2 ^ 8 + a) ∧
  ∀ (p : Packing) (w : Word), p.pack (p.alpha w) (p.red w) (p.green w) (p.blue w) = w

/-! ### The compositor's arithmetic -/

/-- R101: `scale8` rounds `v * Ic / 65536` to the nearest integer, ties up, and fits a byte. -/
def Obligations.ScaleRoundsHalfUp : Prop :=
  ∀ v ic : Nat, v ≤ 255 → 1 ≤ ic → ic ≤ 65536 →
    scale8 v ic = (v * ic + 32768) / 65536 ∧ scale8 v ic ≤ 255 ∧ v * ic + 32768 ≤ 16744448 ∧
    scale8 v ic * 131072 ≤ 2 * (v * ic) + 65536 ∧ 2 * (v * ic) + 65536 < (scale8 v ic + 1) * 131072

/-- R102: where the OPAQUE weight is 0, 1, 128 and 255. -/
def Obligations.OpaqueWeightThresholds : Prop :=
  ∀ ic : Nat, 1 ≤ ic → ic ≤ 65536 →
    (eaOpaque ic = 0 ↔ ic ≤ 128) ∧ (ic = 129 → eaOpaque ic = 1) ∧ (ic = 32768 → eaOpaque ic = 128) ∧
    (65408 ≤ ic → eaOpaque ic = 255)

/-- R104: both integer forms of the interpolation, that they lie between destination and source and
give the source at full weight, and the operands on which they differ. -/
def Obligations.LerpLiesBetweenDestinationAndSource : Prop :=
  (∀ (form : LerpForm) (s d ea : Nat), s ≤ 255 → d ≤ 255 → 1 ≤ ea → ea ≤ 255 →
    LerpedChannel form s d ea (lerp8 form s d ea) ∧
    min s d ≤ lerp8 form s d ea ∧ lerp8 form s d ea ≤ max s d ∧
    (ea = 255 → lerp8 form s d ea = s) ∧ s * ea + d * (255 - ea) ≤ 65025) ∧
  lerp8 .weightedSum 0 100 128 = 49 ∧ lerp8 .deltaTrunc 0 100 128 = 50

/-- R105: the accumulated alpha is at least the weight, fits a byte, and is 255 at full weight or over
a full destination. -/
def Obligations.AlphaAccumulationStaysInByte : Prop :=
  ∀ ea da : Nat, 1 ≤ ea → ea ≤ 255 → da ≤ 255 →
    alpha8 ea da = ea + (da * (255 - ea)) / 255 ∧ da * (255 - ea) / 255 ≤ 255 - ea ∧
    alpha8 ea da ≤ 255 ∧ (ea = 255 ∨ da = 255 → alpha8 ea da = 255)

/-- R109: no lane of a composite's result depends on another lane of the destination. -/
def Obligations.CompositeLanesAreIndependent : Prop :=
  ∀ (c : Config) (mode : DrawMode) (src d₁ d₂ w₁ w₂ : Word) (i : Int),
    composite c mode src d₁ i = some w₁ → composite c mode src d₂ i = some w₂ →
      (c.packing.alpha d₁ = c.packing.alpha d₂ → c.packing.alpha w₁ = c.packing.alpha w₂) ∧
      (c.packing.red d₁ = c.packing.red d₂ → c.packing.red w₁ = c.packing.red w₂) ∧
      (c.packing.green d₁ = c.packing.green d₂ → c.packing.green w₁ = c.packing.green w₂) ∧
      (c.packing.blue d₁ = c.packing.blue d₂ → c.packing.blue w₁ = c.packing.blue w₂)

/-! ### COMP and COMPU -/

/-- R121 (with R100 to R106 and R120): COMP.OPAQUE. -/
def Obligations.CompOpaqueResult : Prop :=
  decode 0x00000001 = .ok .compOpaque ∧
  ∀ s : State,
    (¬ s.InBounds → exec .compOpaque s = .next s) ∧
    (s.InBounds → s.intensity ≤ 128 → exec .compOpaque s = .next s) ∧
    (s.InBounds → 129 ≤ s.intensity → ∃ t, exec .compOpaque s = .next t ∧
      OnlyPixelChanged s t s.pixelIndex ∧
      1 ≤ roundedProduct 255 s.clampedIntensity ∧
      OverChannels s.config s.color (s.pixel s.pixelIndex) (roundedProduct 255 s.clampedIntensity)
        (t.pixel s.pixelIndex))

/-- R122 (with R100 to R106 and R120): COMP.BLEND. -/
def Obligations.CompBlendResult : Prop :=
  decode 0x00000011 = .ok .compBlend ∧
  ∀ s : State,
    (¬ s.InBounds → exec .compBlend s = .next s) ∧
    (s.InBounds → s.intensity ≤ 0 ∨ roundedProduct (s.config.packing.alpha s.color) s.clampedIntensity = 0 →
      exec .compBlend s = .next s) ∧
    (s.InBounds → 0 < s.intensity →
      roundedProduct (s.config.packing.alpha s.color) s.clampedIntensity ≠ 0 →
      ∃ t, exec .compBlend s = .next t ∧ OnlyPixelChanged s t s.pixelIndex ∧
        OverChannels s.config s.color (s.pixel s.pixelIndex)
          (roundedProduct (s.config.packing.alpha s.color) s.clampedIntensity) (t.pixel s.pixelIndex))

/-- R123 (with R100, R101, R107 and R120): COMP.ADD. -/
def Obligations.CompAddResult : Prop :=
  decode 0x00000021 = .ok .compAdd ∧
  ∀ s : State,
    (¬ s.InBounds → exec .compAdd s = .next s) ∧
    (s.InBounds → s.intensity ≤ 0 → exec .compAdd s = .next s) ∧
    (s.InBounds → 0 < s.intensity → ∃ t, exec .compAdd s = .next t ∧
      OnlyPixelChanged s t s.pixelIndex ∧
      AddChannels s.config s.color (s.pixel s.pixelIndex) s.clampedIntensity (t.pixel s.pixelIndex))

/-- R130 to R133: in bounds each unchecked command completes with the effect of the checked one; out of
bounds it is undefined, a fault, whatever intensity and colour. -/
def Obligations.CompuMatchesCompInBoundsAndFaultsOutside : Prop :=
  decode 0x00000002 = .ok .compuOpaque ∧ decode 0x00000012 = .ok .compuBlend ∧
  decode 0x00000022 = .ok .compuAdd ∧
  ∀ s : State,
    (s.InBounds →
      (∃ t, exec .compuOpaque s = .next t ∧ exec .compOpaque s = .next t) ∧
      (∃ t, exec .compuBlend s = .next t ∧ exec .compBlend s = .next t) ∧
      (∃ t, exec .compuAdd s = .next t ∧ exec .compAdd s = .next t)) ∧
    (¬ s.InBounds → ∀ color inten : Word, ∀ i : Instr, Instr.IsCompu i →
      exec i { s with color := color, inten := inten } = .fault .unboundedCompositeIndex)

/-- R100: an intensity at or below 0 makes every composite a no-op, and one above 1.0 acts as 1.0. -/
def Obligations.IntensityIsConditioned : Prop :=
  ∀ (s : State) (i : Instr), s.InBounds → (Instr.IsComp i ∨ Instr.IsCompu i) → ∀ v : Word,
    (v.toInt ≤ 0 → exec i { s with inten := v } = .next { s with inten := v }) ∧
    (65536 < v.toInt → ∃ t, exec i { s with inten := 0x00010000 } = .next t ∧
      exec i { s with inten := v } = .next { t with inten := v })

/-- R111: the five laws of full intensity and zero alpha, under both LERP_FORM values. -/
def Obligations.FullIntensityCopiesSourceColour : Prop :=
  (∀ (c : Config) (src dst : Word),
    overPixel c src dst 255 = c.packing.pack 255 (c.packing.red src) (c.packing.green src) (c.packing.blue src)) ∧
  ∀ s : State, s.InBounds →
    (65408 ≤ s.intensity → ∃ t, exec .compOpaque s = .next t ∧
      t.pixel s.pixelIndex = s.config.packing.pack 255 (s.config.packing.red s.color)
        (s.config.packing.green s.color) (s.config.packing.blue s.color)) ∧
    (65408 ≤ s.intensity → s.config.packing.alpha s.color = 255 → ∃ t, exec .compBlend s = .next t ∧
      t.pixel s.pixelIndex = s.config.packing.pack 255 (s.config.packing.red s.color)
        (s.config.packing.green s.color) (s.config.packing.blue s.color)) ∧
    (65536 ≤ s.intensity → s.config.packing.red (s.pixel s.pixelIndex) = 0 →
      s.config.packing.green (s.pixel s.pixelIndex) = 0 → s.config.packing.blue (s.pixel s.pixelIndex) = 0 →
      ∃ t, exec .compAdd s = .next t ∧
        t.pixel s.pixelIndex = s.config.packing.pack (s.config.packing.alpha (s.pixel s.pixelIndex))
          (s.config.packing.red s.color) (s.config.packing.green s.color) (s.config.packing.blue s.color)) ∧
    (s.config.packing.alpha s.color = 0 → exec .compBlend s = .next s)

/-- R102, R107, C7: OPAQUE and ADDITIVE do not read the source's alpha. -/
def Obligations.OpaqueAndAddIgnoreSourceAlpha : Prop :=
  ∀ (s : State) (v : Word) (i : Instr), i = .compOpaque ∨ i = .compAdd →
    s.config.packing.red v = s.config.packing.red s.color →
    s.config.packing.green v = s.config.packing.green s.color →
    s.config.packing.blue v = s.config.packing.blue s.color →
    ∃ t, exec i s = .next t ∧ exec i { s with color := v } = .next { t with color := v }

/-! ### NOP, CLR, PWR, PRD -/

/-- R150: NOP in its four spellings changes nothing. -/
def Obligations.NopChangesNothing : Prop :=
  (∀ c ∈ ([0x00000000, 0x00000010, 0x00000020, 0x00000030] : List Word), decode c = .ok .nop) ∧
  ∀ s : State, exec .nop s = .next s

/-- R152: CLR in its four spellings makes every pixel COLOR with alpha 255 and changes nothing else,
whatever XY and INTEN hold. -/
def Obligations.ClearFillsEveryPixelOpaque : Prop :=
  (∀ c ∈ ([0x00000003, 0x00000013, 0x00000023, 0x00000033] : List Word), decode c = .ok .clr) ∧
  ∀ (s : State) (xy inten : Word), ∃ t, exec .clr s = .next t ∧ t = { s with fb := t.fb } ∧
    (∀ i, i < s.config.pixels →
      s.config.packing.alpha (t.pixel i) = 255 ∧
      s.config.packing.red (t.pixel i) = s.config.packing.red s.color ∧
      s.config.packing.green (t.pixel i) = s.config.packing.green s.color ∧
      s.config.packing.blue (t.pixel i) = s.config.packing.blue s.color) ∧
    exec .clr { s with xy := xy, inten := inten } = .next { t with xy := xy, inten := inten }

/-- R154: PWR in its four spellings stores COLOR as given in the one pixel XY names; out of bounds it
is a no-op; INTEN is not read. -/
def Obligations.PwrStoresColourRaw : Prop :=
  (∀ c ∈ ([0x00000004, 0x00000014, 0x00000024, 0x00000034] : List Word), decode c = .ok .pwr) ∧
  ∀ s : State,
    (s.InBounds → ∀ inten : Word, ∃ t, exec .pwr s = .next t ∧ t.pixel s.pixelIndex = s.color ∧
      OnlyPixelChanged s t s.pixelIndex ∧
      exec .pwr { s with inten := inten } = .next { t with inten := inten }) ∧
    (¬ s.InBounds → exec .pwr s = .next s)

/-- R156: PRD in its four spellings puts the pixel XY names, or 0 out of bounds, into RESULT and
changes nothing else. -/
def Obligations.PrdLoadsResult : Prop :=
  (∀ c ∈ ([0x00000005, 0x00000015, 0x00000025, 0x00000035] : List Word), decode c = .ok .prd) ∧
  ∀ s : State,
    (s.InBounds → exec .prd s = .next { s with result := s.pixel s.pixelIndex }) ∧
    (¬ s.InBounds → exec .prd s = .next { s with result := 0 })

/-! ### Frames and whole-machine rules

A step with no event pending is among the steps these statements range over: it changes nothing, which is
the model's reading of log 6. -/

/-- R21, R28, R30, R33, R120, R130, R150 to R156: what the ten commands leave unchanged. A command
changes at most the framebuffer and RESULT; RESULT only by PRD; NOP and PRD no pixel; COMP, COMPU and
PWR at most the pixel XY names, and none out of bounds. -/
def Obligations.CommandFrame : Prop :=
  ∀ (i : Instr) (s t : State), exec i s = .next t →
    t = { s with fb := t.fb, result := t.result } ∧
    (i ≠ .prd → t.result = s.result) ∧
    (i = .nop ∨ i = .prd → t.fb = s.fb) ∧
    (i ≠ .clr → ∀ j, j ≠ s.pixelIndex → t.pixel j = s.pixel j) ∧
    (i ≠ .clr → ¬ s.InBounds → ∀ j, t.pixel j = s.pixel j)

/-- R182, R188: a legal command runs the same whatever STATUS holds, and leaves it. -/
def Obligations.CommandsIgnoreStatus : Prop :=
  ∀ (i : Instr) (s : State) (v : Word),
    (∀ t, exec i s = .next t →
      t.status = s.status ∧ exec i { s with status := v } = .next { t with status := v }) ∧
    (∀ f, exec i s = .fault f → exec i { s with status := v } = .fault f)

/-- R83: PRD reads neither COLOR nor INTEN, PWR not INTEN, CLR neither XY nor INTEN; no command reads
RESULT or FBIDX. -/
def Obligations.CommandsIgnoreUnusedRegisters : Prop :=
  ∀ (s : State) (a b : Word),
    (∃ t, exec .prd s = .next t ∧
      exec .prd { s with color := a, inten := b } = .next { t with color := a, inten := b }) ∧
    (∃ t, exec .pwr s = .next t ∧ exec .pwr { s with inten := b } = .next { t with inten := b }) ∧
    (∃ t, exec .clr s = .next t ∧
      exec .clr { s with xy := a, inten := b } = .next { t with xy := a, inten := b }) ∧
    ∀ (i : Instr) (t : State), exec i s = .next t →
      exec i { s with result := a, fbidx := b } =
        .next { t with result := if i = .prd then t.result else a, fbidx := b }

/-- R59: repeating NOP, CLR, PWR or PRD, or a write of XY, COLOR, INTEN, FBIDX or STATUS, changes
nothing more; repeating COMP does in general. -/
def Obligations.RepeatableCommandsAreIdempotent : Prop :=
  (∀ (i : Instr) (s t : State), i = .nop ∨ i = .clr ∨ i = .pwr ∨ i = .prd →
    exec i s = .next t → exec i t = .next t) ∧
  (∀ (r : Reg) (v : Word) (s t : State), r ≠ .cmd →
    hostWrite (some r) v s = .next t → hostWrite (some r) v t = .next t) ∧
  ∀ i : Instr, Instr.IsComp i ∨ Instr.IsCompu i →
    ∃ s t u : State, exec i s = .next t ∧ exec i t = .next u ∧
      u.pixel s.pixelIndex ≠ t.pixel s.pixelIndex

/-- R33, R27: ILL is set only by the CMD write of an illegal word, and cleared only by a write of
STATUS with bit 0 set, or by reset. -/
def Obligations.IllIsSetAndClearedOnlyAsStated : Prop :=
  ∀ s t : State, step s = .next t →
    (s.ill = false → t.ill = true → s.SeesIllegal) ∧
    (s.ill = true → t.ill = false →
      s.Sees .reset ∨ ∃ v : Word, s.SeesWrite 0x10 v ∧ v.toNat % 2 = 1)

/-- R21: XY, COLOR and INTEN keep their value until the host writes it again or the block is reset. -/
def Obligations.OperandRegistersChangeOnlyByHost : Prop :=
  ∀ s t : State, step s = .next t →
    (t.xy ≠ s.xy → s.Sees .reset ∨ s.SeesWrite 0x04 t.xy) ∧
    (t.color ≠ s.color → s.Sees .reset ∨ s.SeesWrite 0x08 t.color) ∧
    (t.inten ≠ s.inten → s.Sees .reset ∨ s.SeesWrite 0x0C t.inten)

/-- R30, R28: FBIDX changes only by a write of it, by an FBDATA read or by reset; RESULT only by PRD or
by reset. -/
def Obligations.FbidxAndResultChangeOnlyAsStated : Prop :=
  ∀ s t : State, step s = .next t →
    (t.fbidx ≠ s.fbidx → s.Sees .reset ∨ s.SeesWrite 0x1C t.fbidx ∨ s.SeesRead 0x20) ∧
    (t.result ≠ s.result → s.Sees .reset ∨ s.SeesCommand .prd)

/-- R50, R158: a pixel changes only by a COMP, COMPU, CLR or PWR command or by reset. -/
def Obligations.PixelsChangeOnlyByDrawingCommands : Prop :=
  ∀ (s t : State) (j : Nat), step s = .next t → t.pixel j ≠ s.pixel j →
    s.Sees .reset ∨ s.SeesCommand .clr ∨
      ∃ i : Instr, s.SeesCommand i ∧ (i = .pwr ∨ Instr.IsComp i ∨ Instr.IsCompu i) ∧
        s.InBounds ∧ j = s.pixelIndex

/-- R35, R29: no access and no reset changes the configuration, nor what DIM reads. -/
def Obligations.ConfigurationNeverChanges : Prop :=
  ∀ s t : State, step s = .next t → t.config = s.config ∧ dimWord t.config = dimWord s.config

/-- R180, R183, R51, I8: a step faults exactly on a COMPU command out of bounds, and is refused exactly
on an access outside the interface. -/
def Obligations.StepStopsOnlyWhereUndefined : Prop :=
  ∀ s : State,
    ((∃ f, step s = .fault f) ↔ ∃ i, Instr.IsCompu i ∧ s.SeesCommand i ∧ ¬ s.InBounds) ∧
    ((∃ r, step s = .refused r) ↔ ∃ a, s.Sees (.access a) ∧ a.wellFormed s.config = false)

/-! ### The host interface -/

/-- R56, R84: the CMD write of a word that decodes to `i` runs `i` on the state with the event taken
from the stream, and nothing else happens in that step. -/
def Obligations.StepRunsDecodedCommand : Prop :=
  ∀ (s : State) (c : Word) (i : Instr) (rest : List Event),
    s.pending = .access (.write s.config.base .word c) :: rest → decode c = .ok i → i.wellFormed = true →
      step s = exec i { s with pending := rest }

/-- R55: what a word read at each aligned offset returns, and that no read but FBDATA's has a side
effect; FBDATA's changes FBIDX at most (R58 says how). -/
def Obligations.HostReadReturnsRegister : Prop :=
  ∀ (s : State) (off : Nat) (rest : List Event),
    s.pending = .access (.read (s.config.base + off) .word) :: rest → off % 4 = 0 → off < 256 →
      (off ≠ 0x20 → step s = .next { s with pending := rest, returned := s.returned ++ [
        if off = 0x04 then s.xy else if off = 0x08 then s.color else if off = 0x0C then s.inten
        else if off = 0x10 then (if s.ill then 1 else 0) else if off = 0x14 then s.result
        else if off = 0x18 then
          BitVec.ofNat 32 (s.config.height % 65536 * 65536 + s.config.width % 65536)
        else if off = 0x1C then s.fbidx else 0] }) ∧
      (off = 0x20 → ∃ t v, step s = .next t ∧
        t = { s with pending := rest, returned := s.returned ++ [v], fbidx := t.fbidx })

/-- R56: what a word write at each aligned offset does; nothing at read-only and reserved offsets. -/
def Obligations.HostWriteEffect : Prop :=
  ∀ (s : State) (off : Nat) (v : Word) (rest : List Event),
    s.pending = .access (.write (s.config.base + off) .word v) :: rest → off % 4 = 0 → off < 256 →
      (off = 0x00 → ∀ i, decode v = .ok i → step s = exec i { s with pending := rest }) ∧
      (off = 0x00 → ∀ e, decode v = .error e →
        step s = .next { s with pending := rest, status := s.status ||| 1 }) ∧
      (off ≠ 0x00 → step s = .next
        (if off = 0x04 then { s with pending := rest, xy := v }
        else if off = 0x08 then { s with pending := rest, color := v }
        else if off = 0x0C then { s with pending := rest, inten := v }
        else if off = 0x10 then
          { s with pending := rest, status := if v.toNat % 2 = 1 then s.status &&& 0xFFFFFFFE else s.status }
        else if off = 0x1C then { s with pending := rest, fbidx := v }
        else { s with pending := rest }))

/-- R58: the readout port, and that N reads from FBIDX = 0 return the whole grid in row-major order and
leave FBIDX = 0. -/
def Obligations.ReadoutReturnsWholeGrid : Prop :=
  (∀ (s : State) (rest : List Event), s.config.Legal → s.pending = rd s.config 0x20 :: rest →
    (s.fbidx.toNat < s.config.pixels → ∃ t, step s = .next t ∧
      t = { s with pending := rest, returned := s.returned ++ [s.pixel s.fbidx.toNat], fbidx := t.fbidx } ∧
      t.fbidx.toNat = (s.fbidx.toNat + 1) % s.config.pixels) ∧
    (s.config.pixels ≤ s.fbidx.toNat →
      step s = .next { s with pending := rest, returned := s.returned ++ [0] })) ∧
  ∀ (s : State) (rest : List Event), s.config.Legal → s.fbidx = 0 →
    s.pending = List.replicate s.config.pixels (rd s.config 0x20) ++ rest →
      Host.Core.run Sys2Proof.core s.config.pixels s =
        .next { s with pending := rest, returned := s.returned ++ (List.range s.config.pixels).map s.pixel }

/-- R51: in the window, an access that is not one 32-bit word at a multiple of 4 is refused. -/
def Obligations.UnalignedOrNarrowAccessIsRefused : Prop :=
  ∀ (s : State) (a : Access) (rest : List Event), s.pending = .access a :: rest →
    s.config.base ≤ a.addr → a.addr < s.config.base + 256 →
    (a.width ≠ .word ∨ (a.addr - s.config.base) % 4 ≠ 0) → step s = .refused .unsupportedAccess

/-- I8, R53: an access outside the window is refused, not part of the model. That the window is tested
before the width is the model's choice (log 8). -/
def Obligations.AccessOutsideWindowIsRefused : Prop :=
  ∀ (s : State) (a : Access) (rest : List Event), s.pending = .access a :: rest →
    (a.addr < s.config.base ∨ s.config.base + 256 ≤ a.addr) → step s = .refused .outsideWindow

/-- R22, R34, and the model's choice of log 6: with no event pending a step changes nothing. -/
def Obligations.NoEventNoChange : Prop :=
  ∀ s : State, s.pending = [] → step s = .next s

/-- R200, R201, with the model's choices of log 3 (which free values) and log 10 (what lies outside the
block stays): the reset input zeroes the registers, keeps the configuration, and leaves every pixel at
a free value of a draw not used before. -/
def Obligations.ResetInputGivesResetState : Prop :=
  ∀ (s : State) (rest : List Event), s.pending = .reset :: rest → ∃ t, step s = .next t ∧
    t.xy = 0 ∧ t.color = 0 ∧ t.inten = 0 ∧ t.status = 0 ∧ t.result = 0 ∧ t.fbidx = 0 ∧
    t.config = s.config ∧ t.pending = rest ∧ t.returned = s.returned ∧ t.draws = s.draws + 1 ∧
    ∀ i, t.pixel i = Config.powerOnPixel (s.draws + 1) i

/-- R201, with log 2 and log 3: the registers of `State.reset` are zero, and its pixels are free values. -/
def Obligations.ResetStateIsAsStated : Prop :=
  State.reset.xy = 0 ∧ State.reset.color = 0 ∧ State.reset.inten = 0 ∧ State.reset.status = 0 ∧
  State.reset.result = 0 ∧ State.reset.fbidx = 0 ∧
  ∀ i, State.reset.pixel i = Config.powerOnPixel State.reset.draws i

/-! ### Sequences of accesses -/

/-- R210: operand registers are sampled only at the CMD write, so an operand write another requester
puts in between is the one the command uses. -/
def Obligations.InterleavedOperandWriteIsUsed : Prop :=
  ∀ (s : State) (i : Instr) (v w : Word) (rest : List Event),
    (s.pending = wr s.config 0x04 v :: wr s.config 0x04 w :: mnemonic s.config i :: rest →
      Host.Core.run Sys2Proof.core 3 s = exec i { s with pending := rest, xy := w }) ∧
    (s.pending = wr s.config 0x08 v :: wr s.config 0x08 w :: mnemonic s.config i :: rest →
      Host.Core.run Sys2Proof.core 3 s = exec i { s with pending := rest, color := w }) ∧
    (s.pending = wr s.config 0x0C v :: wr s.config 0x0C w :: mnemonic s.config i :: rest →
      Host.Core.run Sys2Proof.core 3 s = exec i { s with pending := rest, inten := w })

/-- R90, R211: the BLEND pseudo-instruction runs its command on exactly the operands it names, whatever
the registers held before. -/
def Obligations.BlendSequenceUsesItsOperands : Prop :=
  ∀ (s : State) (m : DrawMode) (x y : Int) (color inten : Word) (rest : List Event),
    -32768 ≤ x → x < 32768 → -32768 ≤ y → y < 32768 →
    s.pending = (Pseudo.blend m x y color inten).expand s.config ++ rest →
      ∃ u : State, Host.Core.run Sys2Proof.core 4 s = exec (compOf m) u ∧
        u = { s with pending := rest, xy := u.xy, color := color, inten := inten } ∧
        u.x = x ∧ u.y = y ∧ u.intensity = inten.toInt

/-- R158, R90: SETPX then GETPX of an in-bounds pixel returns the word set. -/
def Obligations.SetThenGetReturnsColour : Prop :=
  ∀ (s : State) (x y : Int) (color : Word) (rest : List Event), s.config.Legal →
    0 ≤ x → x < s.config.width → 0 ≤ y → y < s.config.height →
    s.pending = (Pseudo.setpx x y color).expand s.config ++ (Pseudo.getpx x y).expand s.config ++ rest →
      ∃ t, Host.Core.run Sys2Proof.core 6 s = .next t ∧ t.pending = rest ∧
        t.returned = s.returned ++ [color]

/-- R152, R158 (source property S3): CLEAR then GETPX of any in-bounds pixel returns the colour with its
alpha forced to 255. -/
def Obligations.ClearThenGetReturnsOpaqueColour : Prop :=
  ∀ (s : State) (x y : Int) (color : Word) (rest : List Event), s.config.Legal →
    0 ≤ x → x < s.config.width → 0 ≤ y → y < s.config.height →
    s.pending = (Pseudo.clear color).expand s.config ++ (Pseudo.getpx x y).expand s.config ++ rest →
      ∃ t, Host.Core.run Sys2Proof.core 5 s = .next t ∧ t.pending = rest ∧
        t.returned = s.returned ++ [s.config.packing.pack 255 (s.config.packing.red color)
          (s.config.packing.green color) (s.config.packing.blue color)]

/-- R180, R60, R130, with the model's choices of log 6 (a step beyond the end of the stream changes
nothing) and log 10 (a reset input leaves the later events pending): a stream of resets and accesses
inside the interface, with no unchecked composite among them, never stops the machine, however long it
runs, and each step takes one event. -/
def Obligations.CheckedStreamNeverStops : Prop :=
  ∀ (s : State) (k : Nat),
    (∀ e ∈ s.pending, e = .reset ∨ ∃ a, e = .access a ∧ a.wellFormed s.config = true ∧
      ∀ (c : Word) (i : Instr), e = commandEvent s.config c → decode c = .ok i → ¬ Instr.IsCompu i) →
    ∃ t, Host.Core.run Sys2Proof.core k s = .next t ∧ t.pending = s.pending.drop k

/-! ### The invariant -/

/-- R7, R27, R32, R35: every step from a state with a legal configuration, a framebuffer inside
`0 .. N-1` in canonical form and STATUS bits 31:1 zero leads to such a state. -/
def Obligations.StepKeepsMachineInvariant : Prop :=
  ∀ s t : State, s.Inv → step s = .next t → t.Inv

/-- R201 in the configuration of log 2: the state after reset meets the invariant. -/
def Obligations.ResetMeetsMachineInvariant : Prop := State.reset.Inv
end

