-- ==== Sys2Proof/Laws/State.lean ====
section
/-! SUPPORT. One lemma per field and update of State, so that no later proof unfolds a record update. -/

namespace Sys2Proof.Machine

variable (s : State)

/-! ### setXy -/

@[simp] theorem State.setXy_xy (v : Word) : (s.setXy v).xy = v := rfl
@[simp] theorem State.setXy_color (v : Word) : (s.setXy v).color = s.color := rfl
@[simp] theorem State.setXy_inten (v : Word) : (s.setXy v).inten = s.inten := rfl
@[simp] theorem State.setXy_status (v : Word) : (s.setXy v).status = s.status := rfl
@[simp] theorem State.setXy_result (v : Word) : (s.setXy v).result = s.result := rfl
@[simp] theorem State.setXy_fbidx (v : Word) : (s.setXy v).fbidx = s.fbidx := rfl
@[simp] theorem State.setXy_fb (v : Word) : (s.setXy v).fb = s.fb := rfl
@[simp] theorem State.setXy_config (v : Word) : (s.setXy v).config = s.config := rfl
@[simp] theorem State.setXy_pending (v : Word) : (s.setXy v).pending = s.pending := rfl
@[simp] theorem State.setXy_returned (v : Word) : (s.setXy v).returned = s.returned := rfl
@[simp] theorem State.setXy_draws (v : Word) : (s.setXy v).draws = s.draws := rfl

/-! ### setColor -/

@[simp] theorem State.setColor_xy (v : Word) : (s.setColor v).xy = s.xy := rfl
@[simp] theorem State.setColor_color (v : Word) : (s.setColor v).color = v := rfl
@[simp] theorem State.setColor_inten (v : Word) : (s.setColor v).inten = s.inten := rfl
@[simp] theorem State.setColor_status (v : Word) : (s.setColor v).status = s.status := rfl
@[simp] theorem State.setColor_result (v : Word) : (s.setColor v).result = s.result := rfl
@[simp] theorem State.setColor_fbidx (v : Word) : (s.setColor v).fbidx = s.fbidx := rfl
@[simp] theorem State.setColor_fb (v : Word) : (s.setColor v).fb = s.fb := rfl
@[simp] theorem State.setColor_config (v : Word) : (s.setColor v).config = s.config := rfl
@[simp] theorem State.setColor_pending (v : Word) : (s.setColor v).pending = s.pending := rfl
@[simp] theorem State.setColor_returned (v : Word) : (s.setColor v).returned = s.returned := rfl
@[simp] theorem State.setColor_draws (v : Word) : (s.setColor v).draws = s.draws := rfl

/-! ### setInten -/

@[simp] theorem State.setInten_xy (v : Word) : (s.setInten v).xy = s.xy := rfl
@[simp] theorem State.setInten_color (v : Word) : (s.setInten v).color = s.color := rfl
@[simp] theorem State.setInten_inten (v : Word) : (s.setInten v).inten = v := rfl
@[simp] theorem State.setInten_status (v : Word) : (s.setInten v).status = s.status := rfl
@[simp] theorem State.setInten_result (v : Word) : (s.setInten v).result = s.result := rfl
@[simp] theorem State.setInten_fbidx (v : Word) : (s.setInten v).fbidx = s.fbidx := rfl
@[simp] theorem State.setInten_fb (v : Word) : (s.setInten v).fb = s.fb := rfl
@[simp] theorem State.setInten_config (v : Word) : (s.setInten v).config = s.config := rfl
@[simp] theorem State.setInten_pending (v : Word) : (s.setInten v).pending = s.pending := rfl
@[simp] theorem State.setInten_returned (v : Word) : (s.setInten v).returned = s.returned := rfl
@[simp] theorem State.setInten_draws (v : Word) : (s.setInten v).draws = s.draws := rfl

/-! ### setStatus -/

@[simp] theorem State.setStatus_xy (v : Word) : (s.setStatus v).xy = s.xy := rfl
@[simp] theorem State.setStatus_color (v : Word) : (s.setStatus v).color = s.color := rfl
@[simp] theorem State.setStatus_inten (v : Word) : (s.setStatus v).inten = s.inten := rfl
@[simp] theorem State.setStatus_status (v : Word) : (s.setStatus v).status = v := rfl
@[simp] theorem State.setStatus_result (v : Word) : (s.setStatus v).result = s.result := rfl
@[simp] theorem State.setStatus_fbidx (v : Word) : (s.setStatus v).fbidx = s.fbidx := rfl
@[simp] theorem State.setStatus_fb (v : Word) : (s.setStatus v).fb = s.fb := rfl
@[simp] theorem State.setStatus_config (v : Word) : (s.setStatus v).config = s.config := rfl
@[simp] theorem State.setStatus_pending (v : Word) : (s.setStatus v).pending = s.pending := rfl
@[simp] theorem State.setStatus_returned (v : Word) : (s.setStatus v).returned = s.returned := rfl
@[simp] theorem State.setStatus_draws (v : Word) : (s.setStatus v).draws = s.draws := rfl

/-! ### setResult -/

@[simp] theorem State.setResult_xy (v : Word) : (s.setResult v).xy = s.xy := rfl
@[simp] theorem State.setResult_color (v : Word) : (s.setResult v).color = s.color := rfl
@[simp] theorem State.setResult_inten (v : Word) : (s.setResult v).inten = s.inten := rfl
@[simp] theorem State.setResult_status (v : Word) : (s.setResult v).status = s.status := rfl
@[simp] theorem State.setResult_result (v : Word) : (s.setResult v).result = v := rfl
@[simp] theorem State.setResult_fbidx (v : Word) : (s.setResult v).fbidx = s.fbidx := rfl
@[simp] theorem State.setResult_fb (v : Word) : (s.setResult v).fb = s.fb := rfl
@[simp] theorem State.setResult_config (v : Word) : (s.setResult v).config = s.config := rfl
@[simp] theorem State.setResult_pending (v : Word) : (s.setResult v).pending = s.pending := rfl
@[simp] theorem State.setResult_returned (v : Word) : (s.setResult v).returned = s.returned := rfl
@[simp] theorem State.setResult_draws (v : Word) : (s.setResult v).draws = s.draws := rfl

/-! ### setFbidx -/

@[simp] theorem State.setFbidx_xy (v : Word) : (s.setFbidx v).xy = s.xy := rfl
@[simp] theorem State.setFbidx_color (v : Word) : (s.setFbidx v).color = s.color := rfl
@[simp] theorem State.setFbidx_inten (v : Word) : (s.setFbidx v).inten = s.inten := rfl
@[simp] theorem State.setFbidx_status (v : Word) : (s.setFbidx v).status = s.status := rfl
@[simp] theorem State.setFbidx_result (v : Word) : (s.setFbidx v).result = s.result := rfl
@[simp] theorem State.setFbidx_fbidx (v : Word) : (s.setFbidx v).fbidx = v := rfl
@[simp] theorem State.setFbidx_fb (v : Word) : (s.setFbidx v).fb = s.fb := rfl
@[simp] theorem State.setFbidx_config (v : Word) : (s.setFbidx v).config = s.config := rfl
@[simp] theorem State.setFbidx_pending (v : Word) : (s.setFbidx v).pending = s.pending := rfl
@[simp] theorem State.setFbidx_returned (v : Word) : (s.setFbidx v).returned = s.returned := rfl
@[simp] theorem State.setFbidx_draws (v : Word) : (s.setFbidx v).draws = s.draws := rfl

/-! ### setPending -/

@[simp] theorem State.setPending_xy (l : List Event) : (s.setPending l).xy = s.xy := rfl
@[simp] theorem State.setPending_color (l : List Event) : (s.setPending l).color = s.color := rfl
@[simp] theorem State.setPending_inten (l : List Event) : (s.setPending l).inten = s.inten := rfl
@[simp] theorem State.setPending_status (l : List Event) : (s.setPending l).status = s.status := rfl
@[simp] theorem State.setPending_result (l : List Event) : (s.setPending l).result = s.result := rfl
@[simp] theorem State.setPending_fbidx (l : List Event) : (s.setPending l).fbidx = s.fbidx := rfl
@[simp] theorem State.setPending_fb (l : List Event) : (s.setPending l).fb = s.fb := rfl
@[simp] theorem State.setPending_config (l : List Event) : (s.setPending l).config = s.config := rfl
@[simp] theorem State.setPending_pending (l : List Event) : (s.setPending l).pending = l := rfl
@[simp] theorem State.setPending_returned (l : List Event) : (s.setPending l).returned = s.returned := rfl
@[simp] theorem State.setPending_draws (l : List Event) : (s.setPending l).draws = s.draws := rfl

/-! ### answer -/

@[simp] theorem State.answer_xy (v : Word) : (s.answer v).xy = s.xy := rfl
@[simp] theorem State.answer_color (v : Word) : (s.answer v).color = s.color := rfl
@[simp] theorem State.answer_inten (v : Word) : (s.answer v).inten = s.inten := rfl
@[simp] theorem State.answer_status (v : Word) : (s.answer v).status = s.status := rfl
@[simp] theorem State.answer_result (v : Word) : (s.answer v).result = s.result := rfl
@[simp] theorem State.answer_fbidx (v : Word) : (s.answer v).fbidx = s.fbidx := rfl
@[simp] theorem State.answer_fb (v : Word) : (s.answer v).fb = s.fb := rfl
@[simp] theorem State.answer_config (v : Word) : (s.answer v).config = s.config := rfl
@[simp] theorem State.answer_pending (v : Word) : (s.answer v).pending = s.pending := rfl
@[simp] theorem State.answer_returned (v : Word) : (s.answer v).returned = s.returned ++ [v] := rfl
@[simp] theorem State.answer_draws (v : Word) : (s.answer v).draws = s.draws := rfl

/-! ### setPixel -/

@[simp] theorem State.setPixel_xy (i : Nat) (w : Word) : (s.setPixel i w).xy = s.xy := rfl
@[simp] theorem State.setPixel_color (i : Nat) (w : Word) : (s.setPixel i w).color = s.color := rfl
@[simp] theorem State.setPixel_inten (i : Nat) (w : Word) : (s.setPixel i w).inten = s.inten := rfl
@[simp] theorem State.setPixel_status (i : Nat) (w : Word) : (s.setPixel i w).status = s.status := rfl
@[simp] theorem State.setPixel_result (i : Nat) (w : Word) : (s.setPixel i w).result = s.result := rfl
@[simp] theorem State.setPixel_fbidx (i : Nat) (w : Word) : (s.setPixel i w).fbidx = s.fbidx := rfl
@[simp] theorem State.setPixel_fb (i : Nat) (w : Word) : (s.setPixel i w).fb = Memory.write s.fb i w := rfl
@[simp] theorem State.setPixel_config (i : Nat) (w : Word) : (s.setPixel i w).config = s.config := rfl
@[simp] theorem State.setPixel_pending (i : Nat) (w : Word) : (s.setPixel i w).pending = s.pending := rfl
@[simp] theorem State.setPixel_returned (i : Nat) (w : Word) : (s.setPixel i w).returned = s.returned := rfl
@[simp] theorem State.setPixel_draws (i : Nat) (w : Word) : (s.setPixel i w).draws = s.draws := rfl

/-! ### fillPixels -/

@[simp] theorem State.fillPixels_xy (w : Word) : (s.fillPixels w).xy = s.xy := rfl
@[simp] theorem State.fillPixels_color (w : Word) : (s.fillPixels w).color = s.color := rfl
@[simp] theorem State.fillPixels_inten (w : Word) : (s.fillPixels w).inten = s.inten := rfl
@[simp] theorem State.fillPixels_status (w : Word) : (s.fillPixels w).status = s.status := rfl
@[simp] theorem State.fillPixels_result (w : Word) : (s.fillPixels w).result = s.result := rfl
@[simp] theorem State.fillPixels_fbidx (w : Word) : (s.fillPixels w).fbidx = s.fbidx := rfl
@[simp] theorem State.fillPixels_fb (w : Word) : (s.fillPixels w).fb = Memory.fill s.config.pixels w := rfl
@[simp] theorem State.fillPixels_config (w : Word) : (s.fillPixels w).config = s.config := rfl
@[simp] theorem State.fillPixels_pending (w : Word) : (s.fillPixels w).pending = s.pending := rfl
@[simp] theorem State.fillPixels_returned (w : Word) : (s.fillPixels w).returned = s.returned := rfl
@[simp] theorem State.fillPixels_draws (w : Word) : (s.fillPixels w).draws = s.draws := rfl

/-! ### raiseIllegal, acknowledge and takeReset -/

@[simp] theorem State.raiseIllegal_xy : (s.raiseIllegal).xy = s.xy := rfl
@[simp] theorem State.raiseIllegal_color : (s.raiseIllegal).color = s.color := rfl
@[simp] theorem State.raiseIllegal_inten : (s.raiseIllegal).inten = s.inten := rfl
@[simp] theorem State.raiseIllegal_status : (s.raiseIllegal).status = setIll s.status := rfl
@[simp] theorem State.raiseIllegal_result : (s.raiseIllegal).result = s.result := rfl
@[simp] theorem State.raiseIllegal_fbidx : (s.raiseIllegal).fbidx = s.fbidx := rfl
@[simp] theorem State.raiseIllegal_fb : (s.raiseIllegal).fb = s.fb := rfl
@[simp] theorem State.raiseIllegal_config : (s.raiseIllegal).config = s.config := rfl
@[simp] theorem State.raiseIllegal_pending : (s.raiseIllegal).pending = s.pending := rfl
@[simp] theorem State.raiseIllegal_returned : (s.raiseIllegal).returned = s.returned := rfl
@[simp] theorem State.raiseIllegal_draws : (s.raiseIllegal).draws = s.draws := rfl
@[simp] theorem State.acknowledge_xy (v : Word) : (s.acknowledge v).xy = s.xy := rfl
@[simp] theorem State.acknowledge_color (v : Word) : (s.acknowledge v).color = s.color := rfl
@[simp] theorem State.acknowledge_inten (v : Word) : (s.acknowledge v).inten = s.inten := rfl
@[simp] theorem State.acknowledge_status (v : Word) : (s.acknowledge v).status = writeOneToClear s.status v := rfl
@[simp] theorem State.acknowledge_result (v : Word) : (s.acknowledge v).result = s.result := rfl
@[simp] theorem State.acknowledge_fbidx (v : Word) : (s.acknowledge v).fbidx = s.fbidx := rfl
@[simp] theorem State.acknowledge_fb (v : Word) : (s.acknowledge v).fb = s.fb := rfl
@[simp] theorem State.acknowledge_config (v : Word) : (s.acknowledge v).config = s.config := rfl
@[simp] theorem State.acknowledge_pending (v : Word) : (s.acknowledge v).pending = s.pending := rfl
@[simp] theorem State.acknowledge_returned (v : Word) : (s.acknowledge v).returned = s.returned := rfl
@[simp] theorem State.acknowledge_draws (v : Word) : (s.acknowledge v).draws = s.draws := rfl
@[simp] theorem State.takeReset_xy : s.takeReset.xy = 0 := rfl
@[simp] theorem State.takeReset_color : s.takeReset.color = 0 := rfl
@[simp] theorem State.takeReset_inten : s.takeReset.inten = 0 := rfl
@[simp] theorem State.takeReset_status : s.takeReset.status = 0 := rfl
@[simp] theorem State.takeReset_result : s.takeReset.result = 0 := rfl
@[simp] theorem State.takeReset_fbidx : s.takeReset.fbidx = 0 := rfl
@[simp] theorem State.takeReset_fb : s.takeReset.fb = [] := rfl
@[simp] theorem State.takeReset_config : s.takeReset.config = s.config := rfl
@[simp] theorem State.takeReset_pending : s.takeReset.pending = s.pending := rfl
@[simp] theorem State.takeReset_returned : s.takeReset.returned = s.returned := rfl
@[simp] theorem State.takeReset_draws : s.takeReset.draws = s.draws + 1 := rfl

/-! ### What the operand readings look at -/

@[simp] theorem State.setXy_intensity (v : Word) : (s.setXy v).intensity = s.intensity := rfl
@[simp] theorem State.setXy_pixel (v : Word) (j : Nat) : (s.setXy v).pixel j = s.pixel j := rfl

@[simp] theorem State.setColor_x (v : Word) : (s.setColor v).x = s.x := rfl
@[simp] theorem State.setColor_y (v : Word) : (s.setColor v).y = s.y := rfl
@[simp] theorem State.setColor_intensity (v : Word) : (s.setColor v).intensity = s.intensity := rfl
@[simp] theorem State.setColor_pixelIndex (v : Word) : (s.setColor v).pixelIndex = s.pixelIndex := rfl
@[simp] theorem State.setColor_inBounds (v : Word) : (s.setColor v).InBounds ↔ s.InBounds := Iff.rfl
@[simp] theorem State.setColor_pixel (v : Word) (j : Nat) : (s.setColor v).pixel j = s.pixel j := rfl

@[simp] theorem State.setInten_x (v : Word) : (s.setInten v).x = s.x := rfl
@[simp] theorem State.setInten_y (v : Word) : (s.setInten v).y = s.y := rfl
@[simp] theorem State.setInten_pixelIndex (v : Word) : (s.setInten v).pixelIndex = s.pixelIndex := rfl
@[simp] theorem State.setInten_inBounds (v : Word) : (s.setInten v).InBounds ↔ s.InBounds := Iff.rfl
@[simp] theorem State.setInten_pixel (v : Word) (j : Nat) : (s.setInten v).pixel j = s.pixel j := rfl

@[simp] theorem State.setStatus_x (v : Word) : (s.setStatus v).x = s.x := rfl
@[simp] theorem State.setStatus_y (v : Word) : (s.setStatus v).y = s.y := rfl
@[simp] theorem State.setStatus_intensity (v : Word) : (s.setStatus v).intensity = s.intensity := rfl
@[simp] theorem State.setStatus_pixelIndex (v : Word) : (s.setStatus v).pixelIndex = s.pixelIndex := rfl
@[simp] theorem State.setStatus_inBounds (v : Word) : (s.setStatus v).InBounds ↔ s.InBounds := Iff.rfl
@[simp] theorem State.setStatus_pixel (v : Word) (j : Nat) : (s.setStatus v).pixel j = s.pixel j := rfl

@[simp] theorem State.setResult_x (v : Word) : (s.setResult v).x = s.x := rfl
@[simp] theorem State.setResult_y (v : Word) : (s.setResult v).y = s.y := rfl
@[simp] theorem State.setResult_intensity (v : Word) : (s.setResult v).intensity = s.intensity := rfl
@[simp] theorem State.setResult_pixelIndex (v : Word) : (s.setResult v).pixelIndex = s.pixelIndex := rfl
@[simp] theorem State.setResult_inBounds (v : Word) : (s.setResult v).InBounds ↔ s.InBounds := Iff.rfl
@[simp] theorem State.setResult_pixel (v : Word) (j : Nat) : (s.setResult v).pixel j = s.pixel j := rfl

@[simp] theorem State.setFbidx_x (v : Word) : (s.setFbidx v).x = s.x := rfl
@[simp] theorem State.setFbidx_y (v : Word) : (s.setFbidx v).y = s.y := rfl
@[simp] theorem State.setFbidx_intensity (v : Word) : (s.setFbidx v).intensity = s.intensity := rfl
@[simp] theorem State.setFbidx_pixelIndex (v : Word) : (s.setFbidx v).pixelIndex = s.pixelIndex := rfl
@[simp] theorem State.setFbidx_inBounds (v : Word) : (s.setFbidx v).InBounds ↔ s.InBounds := Iff.rfl
@[simp] theorem State.setFbidx_pixel (v : Word) (j : Nat) : (s.setFbidx v).pixel j = s.pixel j := rfl

@[simp] theorem State.setPending_x (l : List Event) : (s.setPending l).x = s.x := rfl
@[simp] theorem State.setPending_y (l : List Event) : (s.setPending l).y = s.y := rfl
@[simp] theorem State.setPending_intensity (l : List Event) : (s.setPending l).intensity = s.intensity := rfl
@[simp] theorem State.setPending_pixelIndex (l : List Event) : (s.setPending l).pixelIndex = s.pixelIndex := rfl
@[simp] theorem State.setPending_inBounds (l : List Event) : (s.setPending l).InBounds ↔ s.InBounds := Iff.rfl
@[simp] theorem State.setPending_pixel (l : List Event) (j : Nat) : (s.setPending l).pixel j = s.pixel j := rfl

@[simp] theorem State.answer_x (v : Word) : (s.answer v).x = s.x := rfl
@[simp] theorem State.answer_y (v : Word) : (s.answer v).y = s.y := rfl
@[simp] theorem State.answer_intensity (v : Word) : (s.answer v).intensity = s.intensity := rfl
@[simp] theorem State.answer_pixelIndex (v : Word) : (s.answer v).pixelIndex = s.pixelIndex := rfl
@[simp] theorem State.answer_inBounds (v : Word) : (s.answer v).InBounds ↔ s.InBounds := Iff.rfl
@[simp] theorem State.answer_pixel (v : Word) (j : Nat) : (s.answer v).pixel j = s.pixel j := rfl

@[simp] theorem State.setPixel_x (i : Nat) (w : Word) : (s.setPixel i w).x = s.x := rfl
@[simp] theorem State.setPixel_y (i : Nat) (w : Word) : (s.setPixel i w).y = s.y := rfl
@[simp] theorem State.setPixel_intensity (i : Nat) (w : Word) : (s.setPixel i w).intensity = s.intensity := rfl
@[simp] theorem State.setPixel_pixelIndex (i : Nat) (w : Word) : (s.setPixel i w).pixelIndex = s.pixelIndex := rfl
@[simp] theorem State.setPixel_inBounds (i : Nat) (w : Word) : (s.setPixel i w).InBounds ↔ s.InBounds := Iff.rfl

@[simp] theorem State.fillPixels_x (w : Word) : (s.fillPixels w).x = s.x := rfl
@[simp] theorem State.fillPixels_y (w : Word) : (s.fillPixels w).y = s.y := rfl
@[simp] theorem State.fillPixels_intensity (w : Word) : (s.fillPixels w).intensity = s.intensity := rfl
@[simp] theorem State.fillPixels_pixelIndex (w : Word) : (s.fillPixels w).pixelIndex = s.pixelIndex := rfl
@[simp] theorem State.fillPixels_inBounds (w : Word) : (s.fillPixels w).InBounds ↔ s.InBounds := Iff.rfl

end Sys2Proof.Machine
end

