-- ==== Sys2Proof/Laws/Memory.lean ====
section
/-! SUPPORT. The framebuffer as memory: a read after a write, a fill, and the canonical form that every
operation keeps. -/

namespace Sys2Proof.Machine

theorem Memory.find?_write_self (m : Memory) (i : Nat) (w : Word) :
    Memory.find? (Memory.write m i w) i = some w := by
  induction m with
  | nil => simp [Memory.write, Memory.find?]
  | cons p m ih =>
    obtain ⟨j, v⟩ := p
    unfold Memory.write
    split_ifs with h₁ h₂
    · simp [Memory.find?]
    · simp [Memory.find?]
    · simpa [Memory.find?, h₁] using ih

theorem Memory.find?_write_other (m : Memory) {i j : Nat} (w : Word) (h : j ≠ i) :
    Memory.find? (Memory.write m i w) j = Memory.find? m j := by
  induction m with
  | nil => simp [Memory.write, Memory.find?, Ne.symm h]
  | cons p m ih =>
    obtain ⟨k, v⟩ := p
    unfold Memory.write
    split_ifs with h₁ h₂
    · subst h₁; simp [Memory.find?, Ne.symm h]
    · simp [Memory.find?, Ne.symm h]
    · simp [Memory.find?, ih]

theorem Memory.find?_map_pair (w : Word) (l : List Nat) (i : Nat) :
    Memory.find? (l.map fun k => (k, w)) i = if i ∈ l then some w else none := by
  induction l with
  | nil => rfl
  | cons k l ih =>
    by_cases h : k = i
    · simp [Memory.find?, h]
    · simp [Memory.find?, h, Ne.symm h, ih]

/-- A pixel reads as the word written last. -/
@[simp] theorem Memory.read_write_self (d : Nat) (m : Memory) (i : Nat) (w : Word) :
    Memory.read d (Memory.write m i w) i = w := by
  simp [Memory.read, Memory.find?_write_self]

/-- A write leaves every other pixel alone. -/
theorem Memory.read_write_other (d : Nat) (m : Memory) {i j : Nat} (w : Word) (h : j ≠ i) :
    Memory.read d (Memory.write m i w) j = Memory.read d m j := by
  simp [Memory.read, Memory.find?_write_other m w h]

/-- After a fill every pixel of the framebuffer reads as the fill word. -/
theorem Memory.read_fill (d n : Nat) (w : Word) {i : Nat} (h : i < n) :
    Memory.read d (Memory.fill n w) i = w := by
  simp [Memory.read, Memory.fill, Memory.find?_map_pair, h]

@[simp] theorem State.setPixel_pixel_self (s : State) (i : Nat) (w : Word) :
    (s.setPixel i w).pixel i = w := Memory.read_write_self ..

theorem State.setPixel_pixel_other (s : State) {i j : Nat} (w : Word) (h : j ≠ i) :
    (s.setPixel i w).pixel j = s.pixel j := Memory.read_write_other _ _ w h

theorem State.fillPixels_pixel (s : State) (w : Word) {i : Nat} (h : i < s.config.pixels) :
    (s.fillPixels w).pixel i = w := Memory.read_fill _ _ w h

/-! ### The canonical form -/

theorem Memory.mem_keys_write (m : Memory) (i : Nat) (w : Word) (k : Nat) :
    k ∈ (Memory.write m i w).map Prod.fst ↔ k = i ∨ k ∈ m.map Prod.fst := by
  induction m with
  | nil => simp [Memory.write]
  | cons p m ih =>
    obtain ⟨j, v⟩ := p
    unfold Memory.write
    split_ifs with h₁ h₂
    · subst h₁; simp
    · simp
    · simp only [List.map_cons, List.mem_cons, ih]; tauto

theorem Memory.wf_nil (n : Nat) : Memory.wf n [] := by simp [Memory.wf]

/-- Writing a pixel of the framebuffer keeps the canonical form. -/
theorem Memory.wf_write {n : Nat} {m : Memory} {i : Nat} (w : Word) (h : Memory.wf n m) (hi : i < n) :
    Memory.wf n (Memory.write m i w) := by
  refine ⟨?_, fun k hk => ?_⟩
  · have hs := h.1
    clear h
    induction m with
    | nil => simp [Memory.write]
    | cons p m ih =>
      obtain ⟨j, v⟩ := p
      rw [List.map_cons, List.pairwise_cons] at hs
      unfold Memory.write
      split_ifs with h₁ h₂
      · subst h₁; simpa using hs
      · rw [List.map_cons, List.pairwise_cons]
        refine ⟨fun k hk => ?_, by simpa using hs⟩
        rcases List.mem_cons.1 hk with rfl | hk
        · exact h₂
        · exact h₂.trans (hs.1 k hk)
      · rw [List.map_cons, List.pairwise_cons]
        refine ⟨fun k hk => ?_, ih hs.2⟩
        rcases (Memory.mem_keys_write m i w k).1 hk with rfl | hk
        · simp only; omega
        · exact hs.1 k hk
  · rcases (Memory.mem_keys_write m i w k).1 hk with rfl | hk
    · exact hi
    · exact h.2 k hk

/-- A fill is in canonical form. -/
theorem Memory.wf_fill (n : Nat) (w : Word) : Memory.wf n (Memory.fill n w) := by
  have h : (Memory.fill n w).map Prod.fst = List.range n := by
    simp [Memory.fill, Function.comp_def]
  unfold Memory.wf
  rw [h]
  exact ⟨List.pairwise_lt_range, fun i hi => List.mem_range.1 hi⟩

end Sys2Proof.Machine
end

