-- ==== Sys2Proof/Laws/Composite.lean ====
section
/-! SUPPORT. What the compositor's shared operations can do (spec/40_composite.md R100-R108, R120, R130). -/

namespace Sys2Proof.Machine

theorem condIntensity_none {i : Int} : condIntensity i = none ↔ i ≤ 0 := by
  unfold condIntensity; split_ifs <;> simp <;> omega

theorem condIntensity_some {i : Int} {ic : Nat} (h : condIntensity i = some ic) :
    0 < i ∧ 1 ≤ ic ∧ ic ≤ 65536 ∧ ic = (min i 65536).toNat := by
  unfold condIntensity at h; split_ifs at h <;> simp at h <;> omega

theorem scale8_eq_div (v ic : Nat) : scale8 v ic = (v * ic + 32768) / 65536 := by
  simp [scale8, Nat.shiftRight_eq_div_pow]

theorem scale8_lt {v ic : Nat} (hv : v < 256) (hi : ic ≤ 65536) : scale8 v ic < 256 := by
  have h : v * ic ≤ 255 * 65536 := Nat.mul_le_mul (by omega) hi
  rw [scale8_eq_div]; omega

theorem add8_lt (s d ic : Nat) : add8 s d ic < 256 := by unfold add8; omega

/-- What `compositePixel` can do: nothing, or one store at the pixel XY names. -/
theorem compositePixel_cases (mode : DrawMode) (s : State) :
    (composite s.config mode s.color (s.pixel s.pixelIndex) s.intensity = none ∧ compositePixel mode s = s) ∨
    ∃ w, composite s.config mode s.color (s.pixel s.pixelIndex) s.intensity = some w ∧
      compositePixel mode s = s.setPixel s.pixelIndex w := by
  unfold compositePixel
  cases h : composite s.config mode s.color (s.pixel s.pixelIndex) s.intensity with
  | none => exact .inl ⟨rfl, rfl⟩
  | some w => exact .inr ⟨w, rfl, rfl⟩

theorem compBody_inBounds (mode : DrawMode) {s : State} (h : s.InBounds) :
    compBody mode s = .next (compositePixel mode s) := if_pos h

theorem compBody_outside (mode : DrawMode) {s : State} (h : ¬ s.InBounds) :
    compBody mode s = .next s := if_neg h

theorem compuBody_inBounds (mode : DrawMode) {s : State} (h : s.InBounds) :
    compuBody mode s = .next (compositePixel mode s) := if_pos h

theorem compuBody_outside (mode : DrawMode) {s : State} (h : ¬ s.InBounds) :
    compuBody mode s = .fault .unboundedCompositeIndex := if_neg h

end Sys2Proof.Machine
end

