-- ==== Sys2Proof/Laws/PerInstr.lean ====
section
/-! SUPPORT. Statements made per command, as encoding: LAWS.json's family EncodingFits. -/

namespace Sys2Proof.Laws.EncodingFits

/-- The row's word lies inside its mask, the mask looks at all of OP and RSV, and the word has RSV = 0
(spec/30_encoding.md R80, R85). -/
def Statement (i : Instr) : Prop :=
  encode i &&& opcodeMask i = encode i ∧ opcodeMask i &&& 0xFFFFFFCF = 0xFFFFFFCF ∧ rsvField (encode i) = 0

theorem nop : Statement .nop := ⟨rfl, rfl, rfl⟩
theorem compOpaque : Statement .compOpaque := ⟨rfl, rfl, rfl⟩
theorem compBlend : Statement .compBlend := ⟨rfl, rfl, rfl⟩
theorem compAdd : Statement .compAdd := ⟨rfl, rfl, rfl⟩
theorem compuOpaque : Statement .compuOpaque := ⟨rfl, rfl, rfl⟩
theorem compuBlend : Statement .compuBlend := ⟨rfl, rfl, rfl⟩
theorem compuAdd : Statement .compuAdd := ⟨rfl, rfl, rfl⟩
theorem clr : Statement .clr := ⟨rfl, rfl, rfl⟩
theorem pwr : Statement .pwr := ⟨rfl, rfl, rfl⟩
theorem prd : Statement .prd := ⟨rfl, rfl, rfl⟩

end Sys2Proof.Laws.EncodingFits
end

