-- ==== Sys2Proof/Laws/Pixel.lean ====
section
/-! SUPPORT. The channels of a packed word are the channels packed (spec/00_scope.md R11), and the range
of a channel. -/

namespace Sys2Proof

variable (p : Packing)

theorem Packing.alpha_lt (w : Word) : p.alpha w < 256 := by
  cases p <;> exact BitVec.isLt _

theorem Packing.red_lt (w : Word) : p.red w < 256 := by
  cases p <;> exact BitVec.isLt _

theorem Packing.green_lt (w : Word) : p.green w < 256 := by
  cases p <;> exact BitVec.isLt _

theorem Packing.blue_lt (w : Word) : p.blue w < 256 := by
  cases p <;> exact BitVec.isLt _

/-- An append is a sum: the upper part counts in units of the lower part's size. -/
theorem toNat_append_eq_add {m n : Nat} (x : BitVec m) (y : BitVec n) :
    (x ++ y).toNat = x.toNat * 2 ^ n + y.toNat := by
  rw [BitVec.toNat_append, ← Nat.shiftLeft_add_eq_or_of_lt y.isLt, Nat.shiftLeft_eq]

/-- A field of a bit vector as a number. -/
theorem toNat_extract {w : Nat} (x : BitVec w) (start len : Nat) :
    (x.extractLsb' start len).toNat = x.toNat / 2 ^ start % 2 ^ len := by
  simp [BitVec.extractLsb', Nat.shiftRight_eq_div_pow]

/-- The four bytes of a word, as numbers, from a word put together of four bytes. -/
theorem toNat_extract_append (a b c d : BitVec 8) :
    ((a ++ b ++ c ++ d).extractLsb' 24 8).toNat = a.toNat ∧
    ((a ++ b ++ c ++ d).extractLsb' 16 8).toNat = b.toNat ∧
    ((a ++ b ++ c ++ d).extractLsb' 8 8).toNat = c.toNat ∧
    ((a ++ b ++ c ++ d).extractLsb' 0 8).toNat = d.toNat := by
  have ha := a.isLt; have hb := b.isLt; have hc := c.isLt; have hd := d.isLt
  simp only [toNat_extract, toNat_append_eq_add]
  refine ⟨?_, ?_, ?_, ?_⟩ <;> omega

theorem toNat_byte {n : Nat} (h : n < 256) : (BitVec.ofNat 8 n).toNat = n := by
  simp [Nat.mod_eq_of_lt h]

theorem Packing.alpha_pack {a : Nat} (h : a < 256) (r g b : Nat) : p.alpha (p.pack a r g b) = a := by
  cases p
  · exact (toNat_extract_append ..).1.trans (toNat_byte h)
  · exact (toNat_extract_append ..).2.2.2.trans (toNat_byte h)

theorem Packing.red_pack {r : Nat} (h : r < 256) (a g b : Nat) : p.red (p.pack a r g b) = r := by
  cases p
  · exact (toNat_extract_append ..).2.1.trans (toNat_byte h)
  · exact (toNat_extract_append ..).1.trans (toNat_byte h)

theorem Packing.green_pack {g : Nat} (h : g < 256) (a r b : Nat) : p.green (p.pack a r g b) = g := by
  cases p
  · exact (toNat_extract_append ..).2.2.1.trans (toNat_byte h)
  · exact (toNat_extract_append ..).2.1.trans (toNat_byte h)

theorem Packing.blue_pack {b : Nat} (h : b < 256) (a r g : Nat) : p.blue (p.pack a r g b) = b := by
  cases p
  · exact (toNat_extract_append ..).2.2.2.trans (toNat_byte h)
  · exact (toNat_extract_append ..).2.2.1.trans (toNat_byte h)

end Sys2Proof
end

