-- ==== Sys2Proof/Laws/Step.lean ====
section
/-! SUPPORT. What a command and a step can do, said once. -/

namespace Sys2Proof.Machine

/-- The pixel of an in-bounds coordinate lies in the framebuffer (R32). -/
theorem State.pixelIndex_lt {s : State} (h : s.InBounds) : s.pixelIndex < s.config.pixels := by
  obtain ⟨hx, hxw, hy, hyh⟩ := h
  obtain ⟨x, hx'⟩ := Int.eq_ofNat_of_zero_le hx
  obtain ⟨y, hy'⟩ := Int.eq_ofNat_of_zero_le hy
  rw [hx'] at hxw; rw [hy'] at hyh
  have h₁ : s.pixelIndex = y * s.config.width + x := by
    unfold State.pixelIndex; rw [hx', hy']; norm_cast
  have h₂ : (y + 1) * s.config.width ≤ s.config.height * s.config.width :=
    Nat.mul_le_mul_right _ (by omega)
  rw [h₁]
  unfold Config.pixels
  nlinarith [Nat.mul_comm s.config.width s.config.height]

/-- What a command that answers a next state can do. -/
theorem exec_next_cases {i : Instr} {s t : State} (h : exec i s = .next t) :
    (t = s ∧ i ≠ .clr ∧ i ≠ .prd) ∨
    (∃ w, s.InBounds ∧ t = s.setPixel s.pixelIndex w ∧ (i = .pwr ∨ Instr.IsComp i ∨ Instr.IsCompu i)) ∨
    (i = .clr ∧ t = s.fillPixels (clearWord s.config s.color)) ∨
    (i = .prd ∧ t = s.setResult (if s.InBounds then s.pixel s.pixelIndex else 0)) := by
  have comp : ∀ {mode : DrawMode} {j : Instr}, j ≠ .clr → j ≠ .prd →
      (j = .pwr ∨ Instr.IsComp j ∨ Instr.IsCompu j) → s.InBounds → compositePixel mode s = t →
      (t = s ∧ j ≠ .clr ∧ j ≠ .prd) ∨
      (∃ w, s.InBounds ∧ t = s.setPixel s.pixelIndex w ∧ (j = .pwr ∨ Instr.IsComp j ∨ Instr.IsCompu j)) ∨
      (j = .clr ∧ t = s.fillPixels (clearWord s.config s.color)) ∨
      (j = .prd ∧ t = s.setResult (if s.InBounds then s.pixel s.pixelIndex else 0)) := by
    intro mode j h₁ h₂ h₃ hb ht
    rcases compositePixel_cases mode s with ⟨-, hs⟩ | ⟨w, -, hs⟩
    · exact .inl ⟨by rw [← ht, hs], h₁, h₂⟩
    · exact .inr (.inl ⟨w, hb, by rw [← ht, hs], h₃⟩)
  cases i with
  | nop => cases h; exact .inl ⟨rfl, by simp, by simp⟩
  | compOpaque | compBlend | compAdd =>
    simp only [exec, execCompOpaque, execCompBlend, execCompAdd] at h
    by_cases hb : s.InBounds
    · rw [compBody_inBounds _ hb] at h
      exact comp (by simp) (by simp) (by simp [Instr.IsComp]) hb (by injection h)
    · rw [compBody_outside _ hb] at h; cases h; exact .inl ⟨rfl, by simp, by simp⟩
  | compuOpaque | compuBlend | compuAdd =>
    simp only [exec, execCompuOpaque, execCompuBlend, execCompuAdd] at h
    by_cases hb : s.InBounds
    · rw [compuBody_inBounds _ hb] at h
      exact comp (by simp) (by simp) (by simp [Instr.IsCompu]) hb (by injection h)
    · rw [compuBody_outside _ hb] at h; cases h
  | clr => cases h; exact .inr (.inr (.inl ⟨rfl, rfl⟩))
  | pwr =>
    simp only [exec, execPwr] at h
    split_ifs at h with hb
    · cases h; exact .inr (.inl ⟨_, hb, rfl, .inl rfl⟩)
    · cases h; exact .inl ⟨rfl, by simp, by simp⟩
  | prd =>
    simp only [exec, execPrd] at h
    split_ifs at h with hb <;> cases h
    · exact .inr (.inr (.inr ⟨rfl, by rw [if_pos hb]⟩))
    · exact .inr (.inr (.inr ⟨rfl, by rw [if_neg hb]⟩))

/-- No command is refused. -/
theorem exec_not_refused (i : Instr) (s : State) (r : Refusal) : exec i s ≠ .refused r := by
  cases i <;> simp only [exec, execNop, execCompOpaque, execCompBlend, execCompAdd, execCompuOpaque,
    execCompuBlend, execCompuAdd, execClr, execPwr, execPrd, compBody, compuBody] <;> (try split_ifs) <;> simp

/-- The offset of an accepted access. -/
theorem Access.wellFormed_iff (c : Config) (a : Access) : a.wellFormed c = true ↔
    a.width = .word ∧ ∃ off, a.addr = c.base + off ∧ off % 4 = 0 ∧ off < 256 := by
  simp only [Access.wellFormed, Access.inWindow, Access.isAlignedWord, Bool.and_eq_true, decide_eq_true_eq]
  unfold Access.offset
  constructor
  · rintro ⟨⟨h₁, h₂⟩, h₃, h₄⟩
    exact ⟨h₃, a.addr - c.base, by omega, h₄, by omega⟩
  · rintro ⟨h₁, off, h₂, h₃, h₄⟩
    refine ⟨⟨by omega, by omega⟩, h₁, ?_⟩
    rw [h₂]; simpa using h₃

/-- A host access is accepted when it is well formed, and refused otherwise. -/
theorem hostAccess_wellFormed {a : Access} {s : State} (h : a.wellFormed s.config = true) :
    hostAccess a s = acceptedAccess a s := by
  simp only [Access.wellFormed, Bool.and_eq_true] at h
  simp [hostAccess, h.1, h.2]

theorem hostAccess_illFormed {a : Access} {s : State} (h : a.wellFormed s.config = false) :
    ∃ r, hostAccess a s = .refused r := by
  simp only [Access.wellFormed, Bool.and_eq_false_iff] at h
  unfold hostAccess
  split_ifs with h₁ h₂
  · exact ⟨_, rfl⟩
  · exact ⟨_, rfl⟩
  · simp_all

/-- In numbers: in the window, and one aligned word (R51, R53). -/
theorem Access.inWindow_iff (c : Config) (a : Access) :
    a.inWindow c = true ↔ c.base ≤ a.addr ∧ a.addr < c.base + 256 := by
  simp [Access.inWindow]

theorem Access.isAlignedWord_iff (c : Config) (a : Access) :
    a.isAlignedWord c = true ↔ a.width = .word ∧ (a.addr - c.base) % 4 = 0 := by
  simp only [Access.isAlignedWord, Bool.and_eq_true, decide_eq_true_eq]
  exact Iff.rfl

/-- A word read at an aligned offset. -/
theorem takeEvent_rd {s : State} {b off : Nat} (hb : b = s.config.base) (h₁ : off % 4 = 0) (h₂ : off < 256) :
    takeEvent (.access (.read (b + off) .word)) s =
      .next ((hostRead (regAt off) s).2.answer (hostRead (regAt off) s).1) := by
  subst hb
  have h : Access.wellFormed s.config (.read (s.config.base + off) .word) = true :=
    (Access.wellFormed_iff _ _).2 ⟨rfl, off, rfl, h₁, h₂⟩
  simp only [takeEvent]
  rw [hostAccess_wellFormed h]
  simp [acceptedAccess, Access.offset, Access.addr]

/-- A word write at an aligned offset. -/
theorem takeEvent_wr {s : State} {b off : Nat} (v : Word) (hb : b = s.config.base) (h₁ : off % 4 = 0)
    (h₂ : off < 256) :
    takeEvent (.access (.write (b + off) .word v)) s = hostWrite (regAt off) v s := by
  subst hb
  have h : Access.wellFormed s.config (.write (s.config.base + off) .word v) = true :=
    (Access.wellFormed_iff _ _).2 ⟨rfl, off, rfl, h₁, h₂⟩
  simp only [takeEvent]
  rw [hostAccess_wellFormed h]
  simp [acceptedAccess, Access.offset, Access.addr]

theorem step_cons {s : State} {e : Event} {rest : List Event} (h : s.pending = e :: rest) :
    step s = takeEvent e (s.setPending rest) := by
  unfold step; rw [h]

/-! ### Runs of several steps -/

theorem run_zero (s : State) : Host.Core.run Sys2Proof.core 0 s = .next s := rfl

theorem coreRun_succ (M : Host.Core) {s t : M.State} (k : Nat) (h : M.step s = .next t) :
    M.run (k + 1) s = M.run k t := by
  simp only [Host.Core.run, h]

theorem coreRun_one (M : Host.Core) (s : M.State) : M.run 1 s = M.step s := by
  simp only [Host.Core.run]
  cases M.step s <;> rfl

/-- A run takes one step and goes on from there. -/
theorem run_succ {s t : State} (k : Nat) (h : step s = .next t) :
    Host.Core.run Sys2Proof.core (k + 1) s = Host.Core.run Sys2Proof.core k t :=
  coreRun_succ Sys2Proof.core k h

/-- A run of one step is that step. -/
theorem run_one (s : State) : Host.Core.run Sys2Proof.core 1 s = step s :=
  coreRun_one Sys2Proof.core s

/-! ### What an event and a step can do -/

/-- What an accepted access can be: a read, a write beside CMD, or the CMD write of a word. -/
theorem takeEvent_next_cases {e : Event} {s t : State} (h : takeEvent e s = .next t) :
    (e = .reset ∧ t = s.takeReset) ∨
    (∃ off, off % 4 = 0 ∧ off < 256 ∧ e = rd s.config off ∧
      t = (hostRead (regAt off) s).2.answer (hostRead (regAt off) s).1) ∨
    (∃ off v, off % 4 = 0 ∧ 0 < off ∧ off < 256 ∧ e = wr s.config off v ∧
      hostWrite (regAt off) v s = .next t) ∨
    (∃ c i, e = commandEvent s.config c ∧ decode c = .ok i ∧ exec i s = .next t) ∨
    (∃ c d, e = commandEvent s.config c ∧ decode c = .error d ∧ t = s.raiseIllegal) := by
  cases e with
  | reset => cases h; exact .inl ⟨rfl, rfl⟩
  | access a =>
    right
    cases hw : a.wellFormed s.config with
    | false =>
      obtain ⟨r, hr⟩ := hostAccess_illFormed hw
      simp only [takeEvent] at h
      rw [hr] at h; cases h
    | true =>
      obtain ⟨hword, off, haddr, h₁, h₂⟩ := (Access.wellFormed_iff _ _).1 hw
      cases a with
      | read addr width =>
        obtain rfl : width = .word := hword
        obtain rfl : addr = s.config.base + off := haddr
        rw [takeEvent_rd rfl h₁ h₂] at h
        exact .inl ⟨off, h₁, h₂, rfl, by injection h with h; exact h.symm⟩
      | write addr width v =>
        obtain rfl : width = .word := hword
        obtain rfl : addr = s.config.base + off := haddr
        rw [takeEvent_wr v rfl h₁ h₂] at h
        rcases Nat.eq_zero_or_pos off with rfl | hpos
        · right; right
          have h' : command v s = .next t := h
          unfold command at h'
          cases hd : decode v with
          | ok i => rw [hd] at h'; exact .inl ⟨v, i, rfl, hd, h'⟩
          | error d => rw [hd] at h'; cases h'; exact .inr ⟨v, d, rfl, hd, rfl⟩
        · exact .inr (.inl ⟨off, v, h₁, hpos, h₂, rfl, h⟩)

/-- What a step that answers a next state can do. -/
theorem step_next_cases {s t : State} (h : step s = .next t) :
    (s.pending = [] ∧ t = s) ∨
    (s.Sees .reset ∧ t = s.popped.takeReset) ∨
    (∃ off, off % 4 = 0 ∧ off < 256 ∧ s.SeesRead off ∧
      t = (hostRead (regAt off) s.popped).2.answer (hostRead (regAt off) s.popped).1) ∨
    (∃ off v, off % 4 = 0 ∧ 0 < off ∧ off < 256 ∧ s.SeesWrite off v ∧
      hostWrite (regAt off) v s.popped = .next t) ∨
    (∃ i, s.SeesCommand i ∧ exec i s.popped = .next t) ∨
    (s.SeesIllegal ∧ t = s.popped.raiseIllegal) := by
  cases hp : s.pending with
  | nil =>
    left
    unfold step at h; rw [hp] at h; cases h; exact ⟨rfl, rfl⟩
  | cons e rest =>
    right
    have hsee : ∀ e', e = e' → s.Sees e' := by rintro _ rfl; simp [State.Sees, hp]
    have hpop : s.setPending rest = s.popped := by simp [State.popped, hp]
    rw [step_cons hp, hpop] at h
    rcases takeEvent_next_cases h with ⟨he, ht⟩ | ⟨off, h₁, h₂, he, ht⟩ | ⟨off, v, h₁, h₀, h₂, he, ht⟩ |
      ⟨c, i, he, hd, ht⟩ | ⟨c, d, he, hd, ht⟩
    · exact .inl ⟨hsee _ he, ht⟩
    · exact .inr (.inl ⟨off, h₁, h₂, hsee _ he, ht⟩)
    · exact .inr (.inr (.inl ⟨off, v, h₁, h₀, h₂, hsee _ he, ht⟩))
    · exact .inr (.inr (.inr (.inl ⟨i, ⟨c, hsee _ he, hd⟩, ht⟩)))
    · exact .inr (.inr (.inr (.inr ⟨⟨c, d, hsee _ he, hd⟩, ht⟩)))

/-- What a write beside CMD can do: one register changes, or nothing. -/
theorem hostWrite_next_cases {off : Nat} {v : Word} {s t : State} (h₀ : 0 < off)
    (h : hostWrite (regAt off) v s = .next t) :
    (off = 0x04 ∧ t = s.setXy v) ∨ (off = 0x08 ∧ t = s.setColor v) ∨ (off = 0x0C ∧ t = s.setInten v) ∨
    (off = 0x10 ∧ t = s.acknowledge v) ∨ (off = 0x1C ∧ t = s.setFbidx v) ∨ t = s := by
  unfold regAt at h
  split at h <;> simp only [hostWrite] at h <;> first
    | omega
    | (injection h with h; subst h; simp)

/-- What a read can do beside answering: nothing, or, at FBDATA, FBIDX advances. -/
theorem hostRead_state_cases (off : Nat) (s : State) :
    (hostRead (regAt off) s).2 = s ∨
    (off = 0x20 ∧ ∃ v, (hostRead (regAt off) s).2 = s.setFbidx v) := by
  unfold regAt
  split <;> simp only [hostRead, true_or]
  unfold readFbdata
  split_ifs
  · exact .inr ⟨trivial, _, rfl⟩
  · exact .inl rfl

end Sys2Proof.Machine
end

