-- ==== Sys2Proof/Tests/Slice0.lean ====
section
/-! SUPPORT. The model's own tests. Expected values come from spec/95_test_vectors.md (the vector's id
stands with each test) or from the encodings of spec/30_encoding.md; the last part shows, for each
obligation with hypotheses, a state and operands that meet them. -/

namespace Sys2Proof.Tests

open Sys2Proof.Machine

/-! ### Helpers -/

/-- The configuration of spec/95_test_vectors.md. -/
def c43 : Config := ⟨4, 3, .alphaHigh, .weightedSum, 0⟩

/-- The same with the other interpolation form. -/
def c43d : Config := { c43 with lerpForm := .deltaTrunc }

/-- A machine with four registers set and the pixels `fb` written. -/
def mk (c : Config) (xy color inten : Word) (fb : Memory) : State :=
  { State.powerUp c 0 with xy := xy, color := color, inten := inten, fb := fb }

/-- A machine whose pixel 0 holds `dst`, with operands for a composite at (0, 0). -/
def at0 (c : Config) (color dst inten : Word) : State := mk c 0 color inten [(0, dst)]

/-- A machine with one event pending. -/
def facing (e : Event) : State := { at0 c43 0x80FF0000 0xFF0000FF 0x00008000 with pending := [e] }

/-- One reading of the state a command or step leaves. -/
def after {α : Type} (f : State → α) : Host.Outcome State Fault Refusal → Option α
  | .next s => some (f s)
  | .fault _ => none
  | .refused _ => none

/-! ### Well-formedness: one ill-formed term for each check -/

theorem test_wf_zero_width : Config.build? 0 3 .alphaHigh .weightedSum 0 = none := by decide
theorem test_wf_zero_height : Config.build? 4 0 .alphaHigh .weightedSum 0 = none := by decide
theorem test_wf_wide : Config.build? 32768 3 .alphaHigh .weightedSum 0 = none := by decide
theorem test_wf_high : Config.build? 4 32768 .alphaHigh .weightedSum 0 = none := by decide
theorem test_wf_base : Config.build? 4 3 .alphaHigh .weightedSum 128 = none := by decide
theorem test_wf_legal : Config.build? 4 3 .alphaHigh .weightedSum 0 = some c43 := by decide
theorem test_wf_access_below :
    Access.wellFormed { c43 with base := 256 } (.read 252 .word) = false := by decide
theorem test_wf_access_above : Access.wellFormed c43 (.read 256 .word) = false := by decide
theorem test_wf_access_half : Access.wellFormed c43 (.write 0x08 .half 0) = false := by decide
theorem test_wf_access_misaligned : Access.wellFormed c43 (.read 0x09 .word) = false := by decide
theorem test_wf_access : Access.wellFormed c43 (.read 0xFC .word) = true := by decide
theorem test_wf_instr : Instr.wellFormed .compAdd = true := by decide

/-! ### Decoding: words written out bit by bit from R80 to R82 (RSV, MODE, OP) -/

theorem test_decode_nop : decode 0b00000000000000000000000000000000 = .ok .nop := by decide
theorem test_decode_compOpaque : decode 0b00000000000000000000000000000001 = .ok .compOpaque := by decide
theorem test_decode_compBlend : decode 0b00000000000000000000000000010001 = .ok .compBlend := by decide
theorem test_decode_compAdd : decode 0b00000000000000000000000000100001 = .ok .compAdd := by decide
theorem test_decode_compuOpaque : decode 0b00000000000000000000000000000010 = .ok .compuOpaque := by decide
theorem test_decode_compuBlend : decode 0b00000000000000000000000000010010 = .ok .compuBlend := by decide
theorem test_decode_compuAdd : decode 0b00000000000000000000000000100010 = .ok .compuAdd := by decide
theorem test_decode_clr : decode 0b00000000000000000000000000110011 = .ok .clr := by decide
theorem test_decode_pwr : decode 0b00000000000000000000000000100100 = .ok .pwr := by decide
theorem test_decode_prd : decode 0b00000000000000000000000000010101 = .ok .prd := by decide
/-- IL-2, IL-3, IL-4 -/
theorem test_decode_mode3 : decode 0b00000000000000000000000000110010 = .error .reservedMode := by decide
theorem test_decode_op6 : decode 0b00000000000000000000000000000110 = .error .reservedOp := by decide
theorem test_decode_bit8 : decode 0b00000000000000000000000100000001 = .error .reservedBits := by decide
/-- R57: lane 0 is the byte at the lowest address. -/
theorem test_decode_lanes : decodeBytes [0x21, 0, 0, 0, 0x7F] = .ok (.compAdd, [0x7F]) := by decide
theorem test_decode_short : decodeBytes [0x21, 0, 0] = .error .truncated := by decide
theorem test_table_word : decodeTableWord 32 0x12 = some .compuBlend := by decide

/-! ### Commands -/

/-- OP-1 -/
theorem test_compOpaque_half :
    after (·.pixel 0) (exec .compOpaque (at0 c43 0x80FF0000 0xFF0000FF 0x00008000)) = some 0xFF80007F := by
  decide
/-- OP-10, DELTA_TRUNC -/
theorem test_compOpaque_delta :
    after (·.pixel 0) (exec .compOpaque (at0 c43d 0x00000000 0xC8646464 0x00006464)) = some 0xDD3D3D3D := by
  decide
/-- BL-7: the tie rounds up -/
theorem test_compBlend_tie :
    after (·.pixel 0) (exec .compBlend (at0 c43 0x01FFFFFF 0x00000000 0x00008000)) = some 0x01010101 := by
  decide
/-- BL-10, WEIGHTED_SUM -/
theorem test_compBlend_weighted :
    after (·.pixel 0) (exec .compBlend (at0 c43 0x80000000 0x64646464 0x00010000)) = some 0xB1313131 := by
  decide
/-- AD-1: saturation, alpha kept -/
theorem test_compAdd_saturates :
    after (·.pixel 0) (exec .compAdd (at0 c43 0x00808080 0x40C08010 0x00010000)) = some 0x40FFFF90 := by
  decide
/-- AD-8: an intensity just below 0 -/
theorem test_compAdd_negative :
    after (·.pixel 0) (exec .compAdd (at0 c43 0x00FFFFFF 0x10101010 0xFFFFFFFF)) = some 0x10101010 := by
  decide
/-- R131's example -/
theorem test_compuOpaque_midpoint :
    after (·.pixel 0) (exec .compuOpaque (at0 c43 0x00C0C0C0 0xFF404040 0x00008000)) = some 0xFF808080 := by
  decide
/-- CP-8: undefined even at intensity 0 -/
theorem test_compuOpaque_outside :
    exec .compuOpaque (mk c43 0x0000FFFF 0xFFFFFFFF 0 []) = .fault .unboundedCompositeIndex := rfl
/-- BL-4, the intensity clamped -/
theorem test_compuBlend_clamped :
    after (·.pixel 0) (exec .compuBlend (at0 c43 0xFFFF0000 0x12345678 0x00020000)) = some 0xFFFF0000 := by
  decide
/-- R133's example -/
theorem test_compuAdd_alpha :
    after (·.pixel 0) (exec .compuAdd (at0 c43 0xFFFF0000 0x0000FF00 0x00010000)) = some 0x00FFFF00 := by
  decide
/-- CL-2 -/
theorem test_clr_forces_alpha :
    after (fun t => (t.pixel 0, t.pixel 11)) (exec .clr (at0 c43 0x80FFFFFF 0 0)) =
      some (0xFFFFFFFF, 0xFFFFFFFF) := by decide
/-- R152 under ALPHA_LOW: the alpha byte is bits 7:0 -/
theorem test_clr_alpha_low :
    after (·.pixel 5) (exec .clr (at0 { c43 with packing := .alphaLow } 0x10203000 0 0)) = some 0x102030FF := by
  decide
/-- PW-1 -/
theorem test_pwr_keeps_alpha :
    after (·.fb) (exec .pwr (mk c43 0x00020003 0x00ABCDEF 0 [(0, 7)])) = some [(0, 7), (11, 0x00ABCDEF)] := by
  decide
/-- PW-2 -/
theorem test_pwr_outside : after (·.fb) (exec .pwr (mk c43 0x00000004 5 0 [(0, 7)])) = some [(0, 7)] := by
  decide
/-- R156's example -/
theorem test_prd_reads :
    after (·.result) (exec .prd (mk c43 0x00010001 0 0 [(5, 0xFF102030)])) = some 0xFF102030 := by decide
/-- PR-2 -/
theorem test_prd_outside :
    after (·.result) (exec .prd { mk c43 0xFFFFFFFF 0 0 [] with result := 9 }) = some 0 := by decide
/-- NP-1 -/
theorem test_nop_keeps_ill :
    after (·.status) (step { facing (commandEvent c43 0x30) with status := 1 }) = some 1 := by decide

/-! ### The host interface -/

/-- IL-1 -/
theorem test_illegal_sets_ill :
    after (fun t => (t.status, t.fb)) (step (facing (wr c43 0x00 0x31))) = some (1, [(0, 0xFF0000FF)]) := by
  decide
/-- RG-1, RG-2 -/
theorem test_w1c_zero :
    after (·.status) (step { facing (wr c43 0x10 0) with status := 1 }) = some 1 := by decide
theorem test_w1c_ones :
    after (·.status) (step { facing (wr c43 0x10 0xFFFFFFFF) with status := 1 }) = some 0 := by decide
/-- RG-4 -/
theorem test_read_dim : after (·.returned) (step (facing (rd c43 0x18))) = some [0x00030004] := by decide
/-- RG-8, the second half: FBIDX wraps -/
theorem test_fbdata_wraps :
    after (fun t => (t.returned, t.fbidx)) (step { facing (rd c43 0x20) with fbidx := 11, fb := [(11, 3)] }) =
      some ([3], 0) := by decide
/-- RG-9 -/
theorem test_fbdata_outside :
    after (fun t => (t.returned, t.fbidx)) (step { facing (rd c43 0x20) with fbidx := 12 }) = some ([0], 12) := by
  decide
/-- RG-6 -/
theorem test_reserved_write : step (facing (wr c43 0x24 0x1234)) = .next (facing (wr c43 0 0)).popped := rfl
/-- RG-10 -/
theorem test_half_write_refused :
    step (facing (.access (.write 0x08 .half 0))) = .refused .unsupportedAccess := rfl
theorem test_outside_window_refused : step (facing (rd c43 0x100)) = .refused .outsideWindow := rfl
/-- the first instruction after reset -/
theorem test_fetch_word : step (State.reset.withFetchWord 32 0x03) = exec .clr State.reset := rfl
/-- R90: xy(-1, 2); R88: 0.5q, -1q and a literal out of range -/
theorem test_pack_xy : packXy (-1) 2 = 0x0002FFFF := by decide
theorem test_q_half : qLiteral 5 1 = some 0x00008000 := by decide
theorem test_q_minus_one : qLiteral (-1) 0 = some 0xFFFF0000 := by decide
theorem test_literal_too_big : valueLiteral 4294967296 = none := by decide

/-! ### The hypotheses of the obligations are met -/

/-- In bounds at the last pixel (3, 2), out of bounds at (4, 0). -/
def inside : State := mk c43 0x00020003 0x80FF0000 0x00008000 [(11, 0xFF0000FF)]
def outside : State := mk c43 0x00000004 0x80FF0000 0x00008000 [(11, 0xFF0000FF)]

theorem test_hyp_InBounds : inside.InBounds ∧ ¬ outside.InBounds ∧ inside.pixelIndex = 11 := by decide
theorem test_hyp_DecodeSelectsRowByMatchAndMask :
    (0x33 : Word) &&& opcodeMask .clr = encode .clr := by decide
theorem test_hyp_EncodedCommandDecodesBack : ∀ i : Instr, i.wellFormed = true := by
  intro i; cases i <;> rfl
theorem test_hyp_IllegalWords_mode :
    (0x3F#32).toNat / 64 = 0 ∧ (0x0F#32).toNat / 64 = 0 ∧ (0x3F#32).toNat % 16 = (0x0F#32).toNat % 16 := by
  decide
theorem test_hyp_IllegalWords_step :
    (facing (.access (.write c43.base .word 0x40))).pending = [.access (.write c43.base .word 0x40)] ∧
    decode 0x40 = .error .reservedBits ∧ decode 0x0F = .error .reservedOp ∧
    decode 0x06 = .error .reservedOp ∧ decode 0x31 = .error .reservedMode := by decide
theorem test_hyp_IllegalConfiguration :
    Config.Legal ⟨32767, 32767, .alphaLow, .deltaTrunc, 256⟩ ∧ Config.Legal ⟨1, 1, .alphaLow, .deltaTrunc, 0⟩ := by
  decide
theorem test_hyp_LanesAreLittleEndian : 3 < 4 := by decide
theorem test_hyp_Scale : scale8 0 1 = 0 ∧ scale8 255 65536 = 255 := by decide
theorem test_hyp_OpaqueWeight : eaOpaque 128 = 0 ∧ eaOpaque 129 = 1 ∧ eaOpaque 65407 = 254 ∧ eaOpaque 65408 = 255 := by
  decide
theorem test_hyp_Lerp : lerp8 .deltaTrunc 0 255 1 = 254 ∧ lerp8 .weightedSum 255 0 255 = 255 := by decide
theorem test_hyp_Alpha : alpha8 1 255 = 255 ∧ alpha8 255 0 = 255 ∧ alpha8 100 200 = 221 := by decide
theorem test_hyp_CompositeLanes :
    composite c43 .opaqueMode 0x80FF0000 0xFF0000FF 32768 = some 0xFF80007F ∧
    composite c43 .opaqueMode 0x80FF0000 0xFF0000FE 32768 = some 0xFF80007E ∧
    c43.packing.red 0xFF0000FF = c43.packing.red 0xFF0000FE := by decide
/-- COMP.OPAQUE's clauses at their boundary, intensities 128 and 129. -/
theorem test_hyp_CompOpaqueResult :
    { inside with inten := 128 }.InBounds ∧ { inside with inten := 128 }.intensity ≤ 128 ∧
    { inside with inten := 129 }.InBounds ∧ 129 ≤ { inside with inten := 129 }.intensity := by decide
/-- COMP.BLEND's: intensity 0, a zero weight, and a weight of 1. -/
theorem test_hyp_CompBlendResult :
    inside.InBounds ∧ { inside with inten := 0 }.intensity ≤ 0 ∧
    roundedProduct (c43.packing.alpha 0x00FF0000) { inside with color := 0x00FF0000 }.clampedIntensity = 0 ∧
    0 < inside.intensity ∧
    roundedProduct (c43.packing.alpha 0x01FF0000) { inside with color := 0x01FF0000 }.clampedIntensity = 1 := by
  decide
theorem test_hyp_CompAddResult :
    { inside with inten := 0 }.InBounds ∧ { inside with inten := 0 }.intensity ≤ 0 ∧
    { inside with inten := 1 }.InBounds ∧ 0 < { inside with inten := 1 }.intensity := by decide
theorem test_hyp_IntensityIsConditioned :
    (0#32).toInt ≤ 0 ∧ 65536 < (0x00010001#32).toInt ∧ Instr.IsComp .compAdd ∧ Instr.IsCompu .compuAdd :=
  ⟨by decide, by decide, .inr (.inr rfl), .inr (.inr rfl)⟩
theorem test_hyp_FullIntensity_opaque :
    { inside with inten := 65408 }.InBounds ∧ 65408 ≤ { inside with inten := 65408 }.intensity := by decide
theorem test_hyp_FullIntensity_blend :
    { inside with inten := 65408, color := 0xFF123456 }.InBounds ∧
    65408 ≤ { inside with inten := 65408, color := 0xFF123456 }.intensity ∧ c43.packing.alpha 0xFF123456 = 255 := by
  decide
theorem test_hyp_FullIntensity_add :
    { inside with inten := 65536, fb := [(11, 0x40000000)] }.InBounds ∧
    65536 ≤ { inside with inten := 65536, fb := [(11, 0x40000000)] }.intensity ∧
    { inside with inten := 65536, fb := [(11, 0x40000000)] }.pixel 11 = 0x40000000 ∧
    c43.packing.red 0x40000000 = 0 ∧ c43.packing.green 0x40000000 = 0 ∧ c43.packing.blue 0x40000000 = 0 := by
  decide
theorem test_hyp_FullIntensity_zero_alpha :
    { inside with color := 0x00FFFFFF }.InBounds ∧ c43.packing.alpha 0x00FFFFFF = 0 := by decide
theorem test_hyp_OpaqueAndAddIgnoreSourceAlpha :
    c43.packing.red 0x12FF0000 = c43.packing.red inside.color ∧
    c43.packing.green 0x12FF0000 = c43.packing.green inside.color ∧
    c43.packing.blue 0x12FF0000 = c43.packing.blue inside.color ∧ (0x12FF0000 : Word) ≠ inside.color := by decide
theorem test_hyp_ClearFills : 11 < inside.config.pixels := by decide
theorem test_hyp_CommandFrame : ∃ t, exec .compuBlend inside = .next t ∧ t.fb ≠ inside.fb := ⟨_, rfl, by decide⟩
theorem test_hyp_CommandFrame_outside : ∃ t, exec .prd outside = .next t ∧ ¬ outside.InBounds := ⟨_, rfl, by decide⟩
theorem test_hyp_CommandsIgnoreStatus_fault : ∃ f, exec .compuAdd outside = .fault f := ⟨_, rfl⟩
theorem test_hyp_CommandsIgnoreStatus_next : ∃ t, exec .compuAdd inside = .next t ∧ t.status = 0 := ⟨_, rfl, rfl⟩
theorem test_hyp_Repeatable_pwr : ∃ t, exec .pwr inside = .next t ∧ t.fb = [(11, 0x80FF0000)] := ⟨_, rfl, by decide⟩
theorem test_hyp_Repeatable_write :
    ∃ t, hostWrite (some .status) 1 { inside with status := 1 } = .next t ∧ t.status = 0 := ⟨_, rfl, rfl⟩
theorem test_hyp_Configuration : ∃ t, step (facing .reset) = .next t ∧ t.config = c43 := ⟨_, rfl, rfl⟩
theorem test_hyp_IllIsSet :
    ∃ t, step (facing (wr c43 0x00 0x06)) = .next t ∧ (facing (wr c43 0x00 0x06)).ill = false ∧ t.ill = true :=
  ⟨_, rfl, rfl, rfl⟩
theorem test_hyp_IllIsCleared :
    ∃ t, step { facing (wr c43 0x10 1) with status := 1 } = .next t ∧
      { facing (wr c43 0x10 1) with status := 1 }.ill = true ∧ t.ill = false := ⟨_, rfl, rfl, rfl⟩
theorem test_hyp_OperandRegisters_xy :
    ∃ t, step (facing (wr c43 0x04 7)) = .next t ∧ t.xy ≠ (facing (wr c43 0x04 7)).xy := ⟨_, rfl, by decide⟩
theorem test_hyp_OperandRegisters_color :
    ∃ t, step (facing (wr c43 0x08 7)) = .next t ∧ t.color ≠ (facing (wr c43 0x08 7)).color := ⟨_, rfl, by decide⟩
theorem test_hyp_OperandRegisters_inten :
    ∃ t, step (facing .reset) = .next t ∧ t.inten ≠ (facing .reset).inten := ⟨_, rfl, by decide⟩
theorem test_hyp_Fbidx :
    ∃ t, step (facing (rd c43 0x20)) = .next t ∧ t.fbidx ≠ (facing (rd c43 0x20)).fbidx := ⟨_, rfl, by decide⟩
theorem test_hyp_Result :
    ∃ t, step (facing (wr c43 0x00 0x05)) = .next t ∧ t.result ≠ (facing (wr c43 0x00 0x05)).result :=
  ⟨_, rfl, by decide⟩
theorem test_hyp_PixelsChange :
    ∃ t, step (facing (wr c43 0x00 0x01)) = .next t ∧ t.pixel 0 ≠ (facing (wr c43 0x00 0x01)).pixel 0 :=
  ⟨_, rfl, by decide⟩
theorem test_hyp_StepStops_fault :
    ∃ f, step { outside with pending := [commandEvent c43 0x02] } = .fault f := ⟨_, rfl⟩
theorem test_hyp_StepRunsDecodedCommand :
    (facing (commandEvent c43 0x33)).pending = [.access (.write c43.base .word 0x33)] ∧ decode 0x33 = .ok .clr := by
  decide
/-- The first and the last aligned offset, and FBDATA's. -/
theorem test_hyp_HostRead :
    (facing (rd c43 0x00)).pending = [.access (.read (c43.base + 0x00) .word)] ∧
    (facing (rd c43 0xFC)).pending = [.access (.read (c43.base + 0xFC) .word)] ∧ 0xFC % 4 = 0 ∧
    (facing (rd c43 0x20)).pending = [.access (.read (c43.base + 0x20) .word)] := by decide
theorem test_hyp_HostWrite_legal :
    (facing (wr c43 0 5)).pending = [.access (.write (c43.base + 0) .word 5)] ∧ decode 5 = .ok .prd := by decide
theorem test_hyp_HostWrite_illegal : decode 7 = .error .reservedOp := by decide
theorem test_hyp_HostWrite_last :
    (facing (wr c43 0xFC 5)).pending = [.access (.write (c43.base + 0xFC) .word 5)] ∧ 0xFC % 4 = 0 := by decide
/-- The last pixel, and the first index beyond it. -/
theorem test_hyp_Readout_port :
    c43.Legal ∧ (11#32).toNat < c43.pixels ∧ c43.pixels ≤ (12#32).toNat := by decide
theorem test_hyp_Readout_grid :
    ∃ s : State, s.config.Legal ∧ s.fbidx = 0 ∧
      s.pending = List.replicate s.config.pixels (rd s.config 0x20) ++ [.reset] :=
  ⟨{ inside with pending := List.replicate 12 (rd c43 0x20) ++ [.reset] }, by decide, rfl, rfl⟩
theorem test_hyp_Unaligned_misaligned :
    (facing (.access (.read 0xFF .word))).pending = [.access (.read 0xFF .word)] ∧
    c43.base ≤ 0xFF ∧ 0xFF < c43.base + 256 ∧ (0xFF - c43.base) % 4 ≠ 0 := by decide
theorem test_hyp_Unaligned_narrow :
    (facing (.access (.write 0 .byte 0))).pending = [.access (.write 0 .byte 0)] ∧
    c43.base ≤ 0 ∧ 0 < c43.base + 256 ∧ (Access.write 0 .byte 0).width ≠ .word := by decide
theorem test_hyp_OutsideWindow_above :
    (facing (.access (.read 256 .half))).pending = [.access (.read 256 .half)] ∧ c43.base + 256 ≤ 256 := by decide
theorem test_hyp_OutsideWindow_below :
    { facing (.access (.read 255 .word)) with config := { c43 with base := 256 } }.pending =
      [.access (.read 255 .word)] ∧ 255 < { c43 with base := 256 }.base := by decide
theorem test_hyp_NoEvent : State.reset.pending = [] := rfl
theorem test_hyp_Reset : (facing .reset).pending = [.reset] := rfl
theorem test_hyp_Interleaved (v w : Word) (o : Nat) :
    ∃ s : State, s.pending = [wr s.config o v, wr s.config o w, mnemonic s.config .compOpaque] :=
  ⟨{ inside with pending := [wr c43 o v, wr c43 o w, mnemonic c43 .compOpaque] }, rfl⟩
theorem test_hyp_BlendSequence :
    ∃ s : State, s.pending =
      (Pseudo.blend .blendMode (-32768) 32767 0x80FF0000 0x8000).expand s.config ++ [.reset] :=
  ⟨{ inside with pending := (Pseudo.blend .blendMode (-32768) 32767 0x80FF0000 0x8000).expand c43 ++ [.reset] }, rfl⟩
theorem test_hyp_SetThenGet :
    ∃ s : State, s.config.Legal ∧ (3 : Int) < s.config.width ∧ (2 : Int) < s.config.height ∧
      s.pending = (Pseudo.setpx 3 2 5).expand s.config ++ (Pseudo.getpx 3 2).expand s.config ++ [.reset] :=
  ⟨{ inside with pending := (Pseudo.setpx 3 2 5).expand c43 ++ (Pseudo.getpx 3 2).expand c43 ++ [.reset] },
    by decide, by decide, by decide, rfl⟩
theorem test_hyp_ClearThenGet :
    ∃ s : State, s.config.Legal ∧ (3 : Int) < s.config.width ∧ (2 : Int) < s.config.height ∧
      s.pending = (Pseudo.clear 5).expand s.config ++ (Pseudo.getpx 3 2).expand s.config ++ [.reset] :=
  ⟨{ inside with pending := (Pseudo.clear 5).expand c43 ++ (Pseudo.getpx 3 2).expand c43 ++ [.reset] },
    by decide, by decide, by decide, rfl⟩
/-- A stream of a reset, a read and a CLR: no event of it is an unchecked composite. -/
theorem test_hyp_CheckedStream :
    ∀ e ∈ [Event.reset, rd c43 0x20, commandEvent c43 0x03], e = .reset ∨ ∃ a, e = .access a ∧
      a.wellFormed c43 = true ∧
      ∀ (c : Word) (i : Instr), e = commandEvent c43 c → decode c = .ok i → ¬ Instr.IsCompu i := by
  intro e he
  rcases List.mem_cons.1 he with rfl | he
  · exact .inl rfl
  rcases List.mem_cons.1 he with rfl | he
  · exact .inr ⟨_, rfl, by decide, fun c i h => nomatch h⟩
  obtain rfl := List.mem_singleton.1 he
  refine .inr ⟨_, rfl, by decide, fun c i h hd => ?_⟩
  have hc : (0x03 : Word) = c := by injection h with h; injection h
  subst hc
  have hi : decode 0x03 = .ok .clr := rfl
  rw [hi] at hd
  injection hd with hd
  subst hd
  simp [Instr.IsCompu]
theorem test_hyp_StepKeepsInvariant :
    State.Inv { inside with pending := [commandEvent c43 0x01] } ∧
    ∃ t, step { inside with pending := [commandEvent c43 0x01] } = .next t := by
  refine ⟨?_, _, rfl⟩
  unfold State.Inv
  decide

end Sys2Proof.Tests
end

/-! SUPPORT. The family of spec/00_scope.md: the configuration (R6, R7), the channels of a pixel word
(R11) and the invariant every step keeps (R7, R27, R32, R35). -/

namespace Sys2Proof

/-! ### The configuration -/

theorem Config.build?_of_legal {W H b : Nat} {p : Packing} {l : LerpForm}
    (h : Config.Legal ⟨W, H, p, l, b⟩) : Config.build? W H p l b = some ⟨W, H, p, l, b⟩ := if_pos h

theorem Config.build?_of_not_legal {W H b : Nat} {p : Packing} {l : LerpForm}
    (h : ¬ Config.Legal ⟨W, H, p, l, b⟩) : Config.build? W H p l b = none := if_neg h

theorem Config.Legal.pixels_le {c : Config} (h : c.Legal) : c.pixels ≤ 32767 * 32767 := by
  obtain ⟨-, hw, -, hh, -⟩ := h
  exact Nat.mul_le_mul hw hh

/-- Settles O6: each refused range breaks one bound of `Config.Legal`, and a legal size is at most
32767 in each direction. -/
theorem illegalConfigurationIsRefused : Obligations.IllegalConfigurationIsRefused := by
  refine ⟨fun W H p l b hbad => ?_, fun W H p l b hW hW' hH hH' hb => ?_, fun c hc => ?_⟩
  · refine Config.build?_of_not_legal fun ⟨hW, hW', hH, hH', hb⟩ => ?_
    dsimp only at hW hW' hH hH' hb
    omega
  · exact Config.build?_of_legal ⟨hW, hW', hH, hH', hb⟩
  · have hle := hc.pixels_le
    exact ⟨rfl, hle, by omega⟩

/-! ### The channels -/

/-- The uppermost byte needs no remainder. -/
theorem toNat_extract_byte3 (w : Word) : (w.extractLsb' 24 8).toNat = w.toNat / 2 ^ 24 := by
  have hw := w.isLt
  rw [toNat_extract]
  omega

theorem toNat_extract_byte0 (w : Word) : (w.extractLsb' 0 8).toNat = w.toNat % 256 := by
  rw [toNat_extract]
  omega

/-- Four bytes put together count in units of 256. -/
theorem toNat_append_bytes (a b c d : Byte) :
    (a ++ b ++ c ++ d).toNat =
      a.toNat * 2 ^ 24 + b.toNat * 2 ^ 16 + c.toNat * 2 ^ 8 + d.toNat := by
  simp only [toNat_append_eq_add]
  omega

/-- A word is its four bytes put together again. -/
theorem append_extract_bytes (w : Word) :
    w.extractLsb' 24 8 ++ w.extractLsb' 16 8 ++ w.extractLsb' 8 8 ++ w.extractLsb' 0 8 = w := by
  apply BitVec.eq_of_toNat_eq
  rw [toNat_append_bytes, toNat_extract_byte3, toNat_extract_byte0, toNat_extract, toNat_extract]
  omega

/-- Packing a word's own channels gives the word back. -/
theorem Packing.pack_channels (p : Packing) (w : Word) :
    p.pack (p.alpha w) (p.red w) (p.green w) (p.blue w) = w := by
  cases p <;>
    simpa only [Packing.pack, Packing.alpha, Packing.red, Packing.green, Packing.blue,
      BitVec.ofNat_toNat, BitVec.setWidth_eq] using append_extract_bytes w

/-- The word ALPHA_HIGH packs: alpha in the uppermost byte. -/
theorem Packing.toNat_pack_alphaHigh {a r g b : Nat} (ha : a < 256) (hr : r < 256) (hg : g < 256)
    (hb : b < 256) :
    (Packing.alphaHigh.pack a r g b).toNat = a * 2 ^ 24 + r * 2 ^ 16 + g * 2 ^ 8 + b := by
  rw [Packing.pack, toNat_append_bytes, toNat_byte ha, toNat_byte hr, toNat_byte hg, toNat_byte hb]

/-- ALPHA_LOW packs as ALPHA_HIGH does with the four bytes turned by one place. -/
theorem Packing.pack_alphaLow (a r g b : Nat) :
    Packing.alphaLow.pack a r g b = Packing.alphaHigh.pack r g b a := rfl

/-- Settles O9: every channel is one byte of the word, and a packed word is the sum of its bytes. -/
theorem channelsStandWherePackingSays : Obligations.ChannelsStandWherePackingSays := by
  refine ⟨fun w => ?_, fun a r g b ha hr hg hb => ⟨?_, ?_⟩, Packing.pack_channels⟩
  · exact ⟨toNat_extract_byte3 w, toNat_extract w 16 8, toNat_extract w 8 8, toNat_extract_byte0 w,
      toNat_extract_byte3 w, toNat_extract w 16 8, toNat_extract w 8 8, toNat_extract_byte0 w⟩
  · exact Packing.toNat_pack_alphaHigh ha hr hg hb
  · rw [Packing.pack_alphaLow]
    exact Packing.toNat_pack_alphaHigh hr hg hb ha

end Sys2Proof

namespace Sys2Proof.Machine

/-! ### STATUS bits 31:1 -/

theorem setIll_reserved (st : Word) : setIll st &&& 0xFFFFFFFE = st &&& 0xFFFFFFFE := by
  have h : (0x00000001 : Word) &&& 0xFFFFFFFE = 0#32 := by decide
  rw [setIll, BitVec.and_or_distrib_right, h, BitVec.or_zero]

theorem clearIll_reserved (st : Word) : clearIll st &&& 0xFFFFFFFE = st &&& 0xFFFFFFFE := by
  rw [clearIll, BitVec.and_assoc, BitVec.and_self]

theorem writeOneToClear_reserved (st v : Word) :
    writeOneToClear st v &&& 0xFFFFFFFE = st &&& 0xFFFFFFFE := by
  unfold writeOneToClear
  split_ifs
  · exact clearIll_reserved st
  · rfl

/-! ### What keeps the invariant -/

section
variable {s t : State}

/-- The invariant looks at the configuration, the framebuffer and STATUS bits 31:1 alone. -/
theorem State.Inv.congr (h : s.Inv) (hc : t.config = s.config) (hf : t.fb = s.fb)
    (hs : t.status &&& 0xFFFFFFFE = s.status &&& 0xFFFFFFFE) : t.Inv := by
  unfold State.Inv
  rw [hc, hf, hs]
  exact h

theorem State.Inv.popped (h : s.Inv) : s.popped.Inv := h.congr rfl rfl rfl

theorem State.Inv.raiseIllegal (h : s.Inv) : s.raiseIllegal.Inv :=
  h.congr rfl rfl (setIll_reserved s.status)

theorem State.Inv.acknowledge (h : s.Inv) (v : Word) : (s.acknowledge v).Inv :=
  h.congr rfl rfl (writeOneToClear_reserved s.status v)

theorem State.Inv.takeReset (h : s.Inv) : s.takeReset.Inv := by
  obtain ⟨hc, -, -⟩ := h
  exact ⟨hc, Memory.wf_nil _, BitVec.zero_and⟩

theorem State.Inv.setPixel (h : s.Inv) (hb : s.InBounds) (w : Word) :
    (s.setPixel s.pixelIndex w).Inv := by
  obtain ⟨hc, hf, hs⟩ := h
  exact ⟨hc, Memory.wf_write w hf (State.pixelIndex_lt hb), hs⟩

theorem State.Inv.fillPixels (h : s.Inv) (w : Word) : (s.fillPixels w).Inv := by
  obtain ⟨hc, -, hs⟩ := h
  exact ⟨hc, Memory.wf_fill _ w, hs⟩

/-- A command draws inside the framebuffer, fills it, or writes RESULT. -/
theorem exec_keeps_inv {i : Instr} (h : s.Inv) (hx : exec i s = .next t) : t.Inv := by
  obtain ⟨rfl, -, -⟩ | ⟨w, hb, rfl, -⟩ | ⟨-, rfl⟩ | ⟨-, rfl⟩ := exec_next_cases hx
  · exact h
  · exact h.setPixel hb w
  · exact h.fillPixels _
  · exact h.congr rfl rfl rfl

/-- Of the writes beside CMD only the one to STATUS touches what the invariant looks at. -/
theorem hostWrite_keeps_inv {off : Nat} {v : Word} (h : s.Inv) (h₀ : 0 < off)
    (hw : hostWrite (regAt off) v s = .next t) : t.Inv := by
  obtain ⟨-, rfl⟩ | ⟨-, rfl⟩ | ⟨-, rfl⟩ | ⟨-, rfl⟩ | ⟨-, rfl⟩ | rfl := hostWrite_next_cases h₀ hw
  · exact h.congr rfl rfl rfl
  · exact h.congr rfl rfl rfl
  · exact h.congr rfl rfl rfl
  · exact h.acknowledge v
  · exact h.congr rfl rfl rfl
  · exact h

/-- A read moves at most FBIDX, and its answer is the model's own record. -/
theorem hostRead_answer_keeps_inv (h : s.Inv) (off : Nat) (v : Word) :
    ((hostRead (regAt off) s).2.answer v).Inv := by
  obtain hsame | ⟨-, i, hidx⟩ := hostRead_state_cases off s
  · rw [hsame]
    exact h.congr rfl rfl rfl
  · rw [hidx]
    exact h.congr rfl rfl rfl

end

/-- Settles O50: a step takes an event from the stream, which the invariant does not look at, and each
thing it can then do keeps the invariant. -/
theorem stepKeepsMachineInvariant : Obligations.StepKeepsMachineInvariant := by
  intro s t h hstep
  obtain ⟨-, rfl⟩ | ⟨-, rfl⟩ | ⟨off, -, -, -, rfl⟩ | ⟨off, v, -, h₀, -, -, hw⟩ | ⟨i, -, hx⟩ | ⟨-, rfl⟩ :=
    step_next_cases hstep
  · exact h
  · exact h.popped.takeReset
  · exact hostRead_answer_keeps_inv h.popped off _
  · exact hostWrite_keeps_inv h.popped h₀ hw
  · exact exec_keeps_inv h.popped hx
  · exact h.popped.raiseIllegal

end Sys2Proof.Machine

/-! SUPPORT. The family of spec/10_state.md: the operands (R24, R26, R32), what a command leaves unchanged
(R21, R28, R30, R33) and which event changes which register. -/

namespace Sys2Proof.Machine

/-! ### The operand readings -/

/-- A half of a word read with its sign. -/
theorem toInt_extract_half (w : Word) (start : Nat) :
    (w.extractLsb' start 16).toInt =
      if w.toNat / 2 ^ start % 65536 < 32768 then ((w.toNat / 2 ^ start % 65536 : Nat) : Int)
      else ((w.toNat / 2 ^ start % 65536 : Nat) : Int) - 65536 := by
  rw [BitVec.toInt_eq_toNat_cond, toNat_extract]
  split_ifs <;> omega

/-- Settles O7: both halves of XY are sign-extended from 16 bits, and INTEN is read in full. -/
theorem operandsReadSigned : Obligations.OperandsReadSigned := by
  intro s
  refine ⟨?_, ?_, ?_⟩
  · rw [State.x, toInt_extract_half, pow_zero, Nat.div_one]
    rfl
  · have hword := s.xy.isLt
    have hupper : s.xy.toNat / 2 ^ 16 % 65536 = s.xy.toNat / 65536 := by omega
    rw [State.y, toInt_extract_half, hupper]
    rfl
  · rw [State.intensity, BitVec.toInt_eq_toNat_cond]
    split_ifs <;> omega

/-- In bounds the coordinate is a pair of natural numbers, and the pixel index counts whole rows. -/
theorem State.InBounds.exists_nat {s : State} (h : s.InBounds) :
    ∃ x y : Nat, s.x = x ∧ s.y = y ∧ x < s.config.width ∧
      s.pixelIndex = x + s.config.width * y := by
  obtain ⟨hx, hxw, hy, -⟩ := h
  obtain ⟨x, hx⟩ := Int.eq_ofNat_of_zero_le hx
  obtain ⟨y, hy⟩ := Int.eq_ofNat_of_zero_le hy
  refine ⟨x, y, hx, hy, by omega, ?_⟩
  rw [State.pixelIndex, hx, hy, add_comm, mul_comm]
  norm_cast

/-- Settles O8: the column is the remainder and the row the quotient of `x + W * y` by `W`. -/
theorem pixelIndexIsRowMajor : Obligations.PixelIndexIsRowMajor := by
  intro s h
  obtain ⟨x, y, hx, hy, hxw, hindex⟩ := h.exists_nat
  refine ⟨State.pixelIndex_lt h, ?_, ?_⟩
  · rw [hindex, hx, Nat.add_mul_mod_self_left, Nat.mod_eq_of_lt hxw]
  · rw [hindex, hy, Nat.add_mul_div_left _ _ (by omega), Nat.div_eq_of_lt hxw, Nat.zero_add]

/-! ### What a command leaves unchanged -/

/-- Settles O26: a command does nothing, stores the pixel XY names (in bounds), fills the framebuffer
(CLR), or sets RESULT (PRD). -/
theorem commandFrame : Obligations.CommandFrame := by
  intro i s t h
  obtain ⟨rfl, -, -⟩ | ⟨w, hb, rfl, hi⟩ | ⟨rfl, rfl⟩ | ⟨rfl, rfl⟩ := exec_next_cases h
  · simp
  · have hdraw : i ≠ .nop ∧ i ≠ .prd := by
      obtain rfl | (rfl | rfl | rfl) | rfl | rfl | rfl := hi <;> simp
    refine ⟨rfl, fun _ => rfl, fun hi => ?_, fun _ j hj => s.setPixel_pixel_other w hj,
      fun _ hout => absurd hb hout⟩
    exact absurd hi (not_or.2 hdraw)
  · simp [State.fillPixels]
  · simp [State.setResult, State.pixel]

/-! ### What a step does to the registers -/

section
variable (s : State)

@[simp] theorem State.popped_xy : s.popped.xy = s.xy := rfl
@[simp] theorem State.popped_color : s.popped.color = s.color := rfl
@[simp] theorem State.popped_inten : s.popped.inten = s.inten := rfl
@[simp] theorem State.popped_status : s.popped.status = s.status := rfl
@[simp] theorem State.popped_result : s.popped.result = s.result := rfl
@[simp] theorem State.popped_fbidx : s.popped.fbidx = s.fbidx := rfl
@[simp] theorem State.popped_config : s.popped.config = s.config := rfl

end

/-- The states a step from `s` can answer, with the event for each effect on a register: `idle`,
`ignored`, `read` and `draw` change none (R21, R27, R28, R30). -/
inductive StepEffect (s : State) : State → Prop
  | idle : StepEffect s s
  | ignored : StepEffect s s.popped
  | reset (h : s.Sees .reset) : StepEffect s s.popped.takeReset
  | read (w : Word) : StepEffect s (s.popped.answer w)
  | readFbdata (i w : Word) (h : s.SeesRead 0x20) : StepEffect s ((s.popped.setFbidx i).answer w)
  | writeXy (v : Word) (h : s.SeesWrite 0x04 v) : StepEffect s (s.popped.setXy v)
  | writeColor (v : Word) (h : s.SeesWrite 0x08 v) : StepEffect s (s.popped.setColor v)
  | writeInten (v : Word) (h : s.SeesWrite 0x0C v) : StepEffect s (s.popped.setInten v)
  | writeStatus (v : Word) (h : s.SeesWrite 0x10 v) : StepEffect s (s.popped.acknowledge v)
  | writeFbidx (v : Word) (h : s.SeesWrite 0x1C v) : StepEffect s (s.popped.setFbidx v)
  | draw (m : Memory) : StepEffect s { s.popped with fb := m }
  | prd (w : Word) (h : s.SeesCommand .prd) : StepEffect s (s.popped.setResult w)
  | illegal (h : s.SeesIllegal) : StepEffect s s.popped.raiseIllegal

section
variable {s t : State}

/-- A read answers, and at FBDATA may move FBIDX. -/
theorem stepEffect_of_read {off : Nat} (hsee : s.SeesRead off) (w : Word) :
    StepEffect s ((hostRead (regAt off) s.popped).2.answer w) := by
  obtain hsame | ⟨rfl, i, hidx⟩ := hostRead_state_cases off s.popped
  · rw [hsame]
    exact .read w
  · rw [hidx]
    exact .readFbdata i w hsee

/-- A write beside CMD changes the one register it names, or nothing. -/
theorem stepEffect_of_write {off : Nat} {v : Word} (h₀ : 0 < off) (hsee : s.SeesWrite off v)
    (hw : hostWrite (regAt off) v s.popped = .next t) : StepEffect s t := by
  obtain ⟨rfl, rfl⟩ | ⟨rfl, rfl⟩ | ⟨rfl, rfl⟩ | ⟨rfl, rfl⟩ | ⟨rfl, rfl⟩ | rfl :=
    hostWrite_next_cases h₀ hw
  · exact .writeXy v hsee
  · exact .writeColor v hsee
  · exact .writeInten v hsee
  · exact .writeStatus v hsee
  · exact .writeFbidx v hsee
  · exact .ignored

/-- A legal command touches the framebuffer, or RESULT when it is PRD. -/
theorem stepEffect_of_command {i : Instr} (hsee : s.SeesCommand i)
    (hx : exec i s.popped = .next t) : StepEffect s t := by
  obtain ⟨rfl, -, -⟩ | ⟨w, -, rfl, -⟩ | ⟨-, rfl⟩ | ⟨rfl, rfl⟩ := exec_next_cases hx
  · exact .ignored
  · exact .draw _
  · exact .draw _
  · exact .prd _ hsee

/-- Every step that answers a next state has one of the effects. -/
theorem stepEffect_of_step (h : step s = .next t) : StepEffect s t := by
  obtain ⟨-, rfl⟩ | ⟨hsee, rfl⟩ | ⟨off, -, -, hsee, rfl⟩ | ⟨off, v, -, h₀, -, hsee, hw⟩ |
    ⟨i, hsee, hx⟩ | ⟨hsee, rfl⟩ := step_next_cases h
  · exact .idle
  · exact .reset hsee
  · exact stepEffect_of_read hsee _
  · exact stepEffect_of_write h₀ hsee hw
  · exact stepEffect_of_command hsee hx
  · exact .illegal hsee

end

/-- Settles O31: of the effects only a reset and the write of the register itself touch an operand
register. -/
theorem operandRegistersChangeOnlyByHost : Obligations.OperandRegistersChangeOnlyByHost := by
  intro s t hstep
  cases stepEffect_of_step hstep with
  | reset h => exact ⟨fun _ => .inl h, fun _ => .inl h, fun _ => .inl h⟩
  | writeXy v h => exact ⟨fun _ => .inr h, by simp, by simp⟩
  | writeColor v h => exact ⟨by simp, fun _ => .inr h, by simp⟩
  | writeInten v h => exact ⟨by simp, by simp, fun _ => .inr h⟩
  | _ => simp

/-- Settles O32: FBIDX is moved by its write and by the readout port, RESULT by PRD, both by reset. -/
theorem fbidxAndResultChangeOnlyAsStated : Obligations.FbidxAndResultChangeOnlyAsStated := by
  intro s t hstep
  cases stepEffect_of_step hstep with
  | reset h => exact ⟨fun _ => .inl h, fun _ => .inl h⟩
  | readFbdata i w h => exact ⟨fun _ => .inr (.inr h), by simp⟩
  | writeFbidx v h => exact ⟨fun _ => .inr (.inl h), by simp⟩
  | prd w h => exact ⟨by simp, fun _ => .inr h⟩
  | _ => simp

/-- Settles O34: no effect writes the configuration, and DIM reads it alone. -/
theorem configurationNeverChanges : Obligations.ConfigurationNeverChanges := by
  intro s t hstep
  have hconfig : t.config = s.config := by
    cases stepEffect_of_step hstep <;> simp
  exact ⟨hconfig, congrArg dimWord hconfig⟩

/-! ### The flag ILL -/

theorem illBit_setIll (st : Word) : illBit (setIll st) = true := by
  simp [illBit, setIll]

theorem illBit_clearIll (st : Word) : illBit (clearIll st) = false := by
  simp [illBit, clearIll]

/-- The write-one-to-clear of STATUS never sets ILL, and clears it only on an odd value. -/
theorem illBit_writeOneToClear (st v : Word) :
    illBit (writeOneToClear st v) = (illBit st && !v.getLsbD 0) := by
  unfold writeOneToClear
  split_ifs with hv
  · rw [illBit_clearIll, hv, Bool.not_true, Bool.and_false]
  · rw [Bool.eq_false_of_not_eq_true hv, Bool.not_false, Bool.and_true]

/-- Settles O30: besides reset only the illegal-command condition and the write of STATUS touch ILL; the
one sets it, the other clears it when bit 0 of the written value is 1. -/
theorem illIsSetAndClearedOnlyAsStated : Obligations.IllIsSetAndClearedOnlyAsStated := by
  intro s t hstep
  unfold State.ill
  cases stepEffect_of_step hstep with
  | reset h => exact ⟨fun _ hset => by simp [illBit] at hset, fun _ _ => .inl h⟩
  | illegal h =>
    refine ⟨fun _ _ => h, fun _ hclear => ?_⟩
    rw [State.raiseIllegal_status, illBit_setIll] at hclear
    cases hclear
  | writeStatus v h =>
    rw [State.acknowledge_status, illBit_writeOneToClear]
    refine ⟨fun hs => by simp [hs], fun hs hclear => .inr ⟨v, h, ?_⟩⟩
    simpa [hs, BitVec.getLsbD, Nat.testBit_zero] using hclear
  | _ => simp +contextual

/-! ### A step with no event -/

/-- Settles O42: `step` looks at the stream first, and an empty one ends it there. -/
theorem noEventNoChange : Obligations.NoEventNoChange := by
  intro s hempty
  unfold step
  rw [hempty]

end Sys2Proof.Machine

/-! SUPPORT. The family of spec/20_memory.md: byte lanes (R57), the host interface (R50-R60), where a
step stops (R51, R53, R183), what changes a pixel, and the readout port (R58). -/

namespace Sys2Proof

/-! ### Byte lanes -/

theorem ofLanes_lane (w : Word) : ofLanes (lane w 0) (lane w 1) (lane w 2) (lane w 3) = w :=
  append_extract_bytes w

/-- Settles O5: a lane is a field of the word, and the four fields are the word's bytes. -/
theorem lanesAreLittleEndian : Obligations.LanesAreLittleEndian :=
  fun w => ⟨ofLanes_lane w, fun k _ => toNat_extract w (8 * k) 8⟩

theorem decode_encode (i : Instr) : decode (encode i) = .ok i := by
  cases i <;> rfl

theorem decodeBytes_lanes {w : Word} {i : Instr} (h : decode w = .ok i) (rest : List Byte) :
    decodeBytes (lane w 0 :: lane w 1 :: lane w 2 :: lane w 3 :: rest) = .ok (i, rest) := by
  simp [decodeBytes, ofLanes_lane, h]

/-- Settles O2: the ten words decode to their commands, and the lanes of a word are that word. -/
theorem encodedCommandDecodesBack : Obligations.EncodedCommandDecodesBack :=
  fun i rest _ => ⟨decode_encode i, decodeBytes_lanes (decode_encode i) rest⟩

end Sys2Proof

namespace Sys2Proof.Machine

/-! ### The register map -/

/-- Every offset is that of one register, or reserved (R52). -/
theorem offset_cases (off : Nat) :
    (∃ r : Reg, off = r.offset ∧ regAt off = some r) ∨ regAt off = none := by
  cases h : regAt off with
  | some r =>
    refine .inl ⟨r, ?_, rfl⟩
    unfold regAt at h
    split at h <;> cases h <;> rfl
  | none => exact .inr rfl

/-- A reserved offset is none of those that can be written or return anything but 0. -/
theorem ne_offset_of_reserved {off : Nat} (h : regAt off = none) :
    off ≠ 0x04 ∧ off ≠ 0x08 ∧ off ≠ 0x0C ∧ off ≠ 0x10 ∧ off ≠ 0x14 ∧ off ≠ 0x18 ∧ off ≠ 0x1C := by
  refine ⟨?_, ?_, ?_, ?_, ?_, ?_, ?_⟩ <;> rintro rfl <;> cases h

section
variable {s : State} {rest : List Event} {off : Nat}

/-! ### One host access -/

/-- A step that sees an event takes it. -/
theorem step_of_sees {e : Event} (h : s.Sees e) : step s = takeEvent e s.popped := by
  obtain ⟨rest, hp⟩ := List.head?_eq_some_iff.1 h
  rw [step_cons hp, State.popped, hp, List.tail_cons]

/-- The step of a word read at an aligned offset. -/
theorem step_read (hp : s.pending = .access (.read (s.config.base + off) .word) :: rest)
    (h₁ : off % 4 = 0) (h₂ : off < 256) :
    step s = .next ((hostRead (regAt off) (s.setPending rest)).2.answer
      (hostRead (regAt off) (s.setPending rest)).1) :=
  (step_cons hp).trans (takeEvent_rd rfl h₁ h₂)

/-- The step of a word write at an aligned offset. -/
theorem step_write {v : Word} (hp : s.pending = .access (.write (s.config.base + off) .word v) :: rest)
    (h₁ : off % 4 = 0) (h₂ : off < 256) : step s = hostWrite (regAt off) v (s.setPending rest) :=
  (step_cons hp).trans (takeEvent_wr v rfl h₁ h₂)

theorem command_legal {c : Word} {i : Instr} (h : decode c = .ok i) (s : State) :
    command c s = exec i s := by
  rw [command, h]

theorem command_illegal {c : Word} {e : DecodeError} (h : decode c = .error e) (s : State) :
    command c s = .next s.raiseIllegal := by
  rw [command, h]

theorem hostAccess_outside {a : Access} (h : ¬ a.inWindow s.config = true) :
    hostAccess a s = .refused .outsideWindow :=
  if_pos (Bool.eq_false_of_not_eq_true h)

theorem hostAccess_unaligned {a : Access} (h₁ : a.inWindow s.config = true)
    (h₂ : ¬ a.isAlignedWord s.config = true) : hostAccess a s = .refused .unsupportedAccess := by
  simp [hostAccess, h₁, h₂]

/-- The CMD write of a legal word runs its command. -/
theorem takeEvent_command {c : Word} {i : Instr} (h : decode c = .ok i) (s : State) :
    takeEvent (commandEvent s.config c) s = exec i s :=
  (takeEvent_wr c rfl rfl (by decide)).trans (command_legal h s)

theorem step_of_seesCommand {i : Instr} (h : s.SeesCommand i) : step s = exec i s.popped := by
  obtain ⟨c, hsee, hd⟩ := h
  exact (step_of_sees hsee).trans (takeEvent_command hd s.popped)

/-! ### What a write and a read do -/

/-- A write beside CMD always completes. -/
theorem hostWrite_completes (h₀ : 0 < off) (v : Word) (s : State) :
    ∃ t, hostWrite (regAt off) v s = .next t := by
  obtain ⟨r, rfl, hr⟩ | hr := offset_cases off
  · rw [hr]
    cases r with
    | cmd => exact absurd h₀ (by decide)
    | _ => exact ⟨_, rfl⟩
  · rw [hr]
    exact ⟨_, rfl⟩

theorem writeOneToClear_eq_ite (st v : Word) :
    writeOneToClear st v = if v.toNat % 2 = 1 then st &&& 0xFFFFFFFE else st := by
  simp [writeOneToClear, clearIll, BitVec.getLsbD, Nat.testBit_zero]

theorem statusRead_eq_ite (st : Word) : statusRead st = if illBit st then 1 else 0 := by
  unfold statusRead
  cases illBit st <;> rfl

theorem dimWord_eq_ofNat (c : Config) :
    dimWord c = BitVec.ofNat 32 (c.height % 65536 * 65536 + c.width % 65536) := by
  apply BitVec.eq_of_toNat_eq
  rw [dimWord, toNat_append_eq_add]
  simp only [BitVec.toNat_ofNat]
  omega

end

/-- Settles O36: the word write at BASE + 0 is the CMD write. -/
theorem stepRunsDecodedCommand : Obligations.StepRunsDecodedCommand :=
  fun _ _ _ _ hp hd _ => (step_write (off := 0) hp rfl (by decide)).trans (command_legal hd _)

/-- Settles O40: in the window the second test refuses it. -/
theorem unalignedOrNarrowAccessIsRefused : Obligations.UnalignedOrNarrowAccessIsRefused := by
  intro s a rest hp hlow hhigh hbad
  rw [step_cons hp]
  refine hostAccess_unaligned ((Access.inWindow_iff _ _).2 ⟨hlow, hhigh⟩) fun h => ?_
  obtain ⟨hword, haligned⟩ := (Access.isAlignedWord_iff _ _).1 h
  exact hbad.elim (· hword) (· haligned)

/-- Settles O41: outside the window the first test refuses it. -/
theorem accessOutsideWindowIsRefused : Obligations.AccessOutsideWindowIsRefused := by
  intro s a rest hp hout
  rw [step_cons hp]
  refine hostAccess_outside fun h => ?_
  obtain ⟨hlow, hhigh⟩ := (Access.inWindow_iff _ _).1 h
  dsimp only [State.setPending_config] at hlow hhigh
  omega

/-- Settles O38: CMD runs the decoded command; beside it the register map has one effect for each
register and none for the reserved offsets. -/
theorem hostWriteEffect : Obligations.HostWriteEffect := by
  intro s off v rest hp h₁ h₂
  rw [step_write hp h₁ h₂]
  refine ⟨?_, ?_, fun h₀ => ?_⟩
  · rintro rfl i hd
    exact command_legal hd _
  · rintro rfl e hd
    exact command_illegal hd _
  · obtain ⟨r, rfl, hr⟩ | hr := offset_cases off
    · rw [hr]
      cases r with
      | cmd => exact absurd rfl h₀
      | status => rw [← writeOneToClear_eq_ite]; rfl
      | _ => rfl
    · obtain ⟨hxy, hcolor, hinten, hstatus, -, -, hfbidx⟩ := ne_offset_of_reserved hr
      rw [hr, if_neg hxy, if_neg hcolor, if_neg hinten, if_neg hstatus, if_neg hfbidx]
      rfl

/-- Settles O37: a read answers its register, 0 where there is none to read, and only FBDATA's moves
FBIDX. -/
theorem hostReadReturnsRegister : Obligations.HostReadReturnsRegister := by
  intro s off rest hp h₁ h₂
  rw [step_read hp h₁ h₂]
  refine ⟨fun hport => ?_, ?_⟩
  · obtain ⟨r, rfl, hr⟩ | hr := offset_cases off
    · rw [hr]
      cases r with
      | fbdata => exact absurd rfl hport
      | status => rw [State.ill, ← statusRead_eq_ite]; rfl
      | dim => rw [← dimWord_eq_ofNat]; rfl
      | _ => rfl
    · obtain ⟨hxy, hcolor, hinten, hstatus, hresult, hdim, hfbidx⟩ := ne_offset_of_reserved hr
      rw [hr, if_neg hxy, if_neg hcolor, if_neg hinten, if_neg hstatus, if_neg hresult, if_neg hdim,
        if_neg hfbidx]
      rfl
  · rintro rfl
    refine ⟨_, (hostRead (regAt 0x20) (s.setPending rest)).1, rfl, ?_⟩
    obtain hsame | ⟨-, i, hidx⟩ := hostRead_state_cases 0x20 (s.setPending rest)
    · rw [hsame]
      rfl
    · rw [hidx]
      rfl

/-! ### Where a step stops -/

section
variable {s : State} {i : Instr}

theorem compBody_ne_fault (mode : DrawMode) (s : State) (f : Fault) : compBody mode s ≠ .fault f := by
  unfold compBody
  split_ifs <;> simp

theorem compuBody_fault_iff (mode : DrawMode) (s : State) :
    (∃ f, compuBody mode s = .fault f) ↔ ¬ s.InBounds := by
  unfold compuBody
  split_ifs with hb
  · simp [hb]
  · exact iff_of_true ⟨_, rfl⟩ hb

/-- A command faults only as COMPU out of bounds (R130, R183). -/
theorem exec_fault_iff : (∃ f, exec i s = .fault f) ↔ Instr.IsCompu i ∧ ¬ s.InBounds := by
  cases i with
  | compOpaque | compBlend | compAdd =>
    exact iff_of_false (fun ⟨f, h⟩ => compBody_ne_fault _ s f h) (by simp [Instr.IsCompu])
  | compuOpaque | compuBlend | compuAdd =>
    exact (compuBody_fault_iff _ s).trans (and_iff_right (by simp [Instr.IsCompu])).symm
  | nop | clr => simp [exec, execNop, execClr, Instr.IsCompu]
  | pwr | prd => simp only [exec, execPwr, execPrd]; split_ifs <;> simp [Instr.IsCompu]

/-- An event completes, or is an access outside the interface and refused, or runs a legal command. -/
theorem takeEvent_outcome_cases (e : Event) (s : State) :
    (∃ t, takeEvent e s = .next t) ∨
    (∃ a r, e = .access a ∧ a.wellFormed s.config = false ∧ takeEvent e s = .refused r) ∨
    (∃ c i, e = commandEvent s.config c ∧ decode c = .ok i ∧ takeEvent e s = exec i s) := by
  cases e with
  | reset => exact .inl ⟨_, rfl⟩
  | access a =>
    cases hw : a.wellFormed s.config with
    | false =>
      obtain ⟨r, hr⟩ := hostAccess_illFormed hw
      exact .inr (.inl ⟨a, r, rfl, hw, hr⟩)
    | true =>
      obtain ⟨hword, off, haddr, h₁, h₂⟩ := (Access.wellFormed_iff _ _).1 hw
      cases a with
      | read addr width =>
        obtain rfl : width = .word := hword
        obtain rfl : addr = s.config.base + off := haddr
        exact .inl ⟨_, takeEvent_rd rfl h₁ h₂⟩
      | write addr width v =>
        obtain rfl : width = .word := hword
        obtain rfl : addr = s.config.base + off := haddr
        obtain rfl | h₀ := Nat.eq_zero_or_pos off
        · cases hd : decode v with
          | ok i => exact .inr (.inr ⟨v, i, rfl, hd, takeEvent_command hd s⟩)
          | error d =>
            exact .inl ⟨_, (takeEvent_wr v rfl h₁ h₂).trans (command_illegal hd s)⟩
        · rw [takeEvent_wr v rfl h₁ h₂]
          exact .inl (hostWrite_completes h₀ v s)

/-- A step completes, or refuses an access outside the interface, or runs a legal command. -/
theorem step_outcome_cases (s : State) :
    (∃ t, step s = .next t) ∨
    (∃ a r, s.Sees (.access a) ∧ a.wellFormed s.config = false ∧ step s = .refused r) ∨
    (∃ i, s.SeesCommand i ∧ step s = exec i s.popped) := by
  cases hp : s.pending with
  | nil => exact .inl ⟨s, noEventNoChange s hp⟩
  | cons e rest =>
    have hsee : s.Sees e := by rw [State.Sees, hp, List.head?_cons]
    rw [step_of_sees hsee]
    obtain hnext | ⟨a, r, rfl, hw, hr⟩ | ⟨c, i, rfl, hd, hx⟩ := takeEvent_outcome_cases e s.popped
    · exact .inl hnext
    · exact .inr (.inl ⟨a, r, hsee, hw, hr⟩)
    · exact .inr (.inr ⟨i, ⟨c, hsee, hd⟩, hx⟩)

end

/-- Settles O35: of the three things a step can do only a command can fault, and only an access outside
the interface is refused. -/
theorem stepStopsOnlyWhereUndefined : Obligations.StepStopsOnlyWhereUndefined := by
  intro s
  refine ⟨⟨fun ⟨f, hf⟩ => ?_, fun ⟨i, hi, hsee, hout⟩ => ?_⟩,
    ⟨fun ⟨r, hr⟩ => ?_, fun ⟨a, hsee, hw⟩ => ?_⟩⟩
  · obtain ⟨t, ht⟩ | ⟨a, r, -, -, hr⟩ | ⟨i, hsee, hx⟩ := step_outcome_cases s
    · simp [ht] at hf
    · simp [hr] at hf
    · obtain ⟨hi, hout⟩ := exec_fault_iff.1 ⟨f, hx.symm.trans hf⟩
      exact ⟨i, hi, hsee, hout⟩
  · rw [step_of_seesCommand hsee]
    exact exec_fault_iff.2 ⟨hi, hout⟩
  · obtain ⟨t, ht⟩ | ⟨a, -, hsee, hw, -⟩ | ⟨i, -, hx⟩ := step_outcome_cases s
    · simp [ht] at hr
    · exact ⟨a, hsee, hw⟩
    · exact absurd (hx.symm.trans hr) (exec_not_refused i s.popped r)
  · rw [step_of_sees hsee]
    exact hostAccess_illFormed hw

/-! ### Runs of a checked stream -/

/-- Taking an event leaves the later ones pending. -/
theorem takeEvent_pending {e : Event} {s t : State} (h : takeEvent e s = .next t) :
    t.pending = s.pending := by
  obtain ⟨-, rfl⟩ | ⟨off, -, -, -, rfl⟩ | ⟨off, v, -, h₀, -, -, hw⟩ | ⟨c, i, -, -, hx⟩ |
    ⟨c, d, -, -, rfl⟩ := takeEvent_next_cases h
  · rfl
  · obtain hsame | ⟨-, i, hidx⟩ := hostRead_state_cases off s
    · rw [hsame, State.answer_pending]
    · rw [hidx, State.answer_pending, State.setFbidx_pending]
  · obtain ⟨-, rfl⟩ | ⟨-, rfl⟩ | ⟨-, rfl⟩ | ⟨-, rfl⟩ | ⟨-, rfl⟩ | rfl := hostWrite_next_cases h₀ hw <;> rfl
  · obtain ⟨hframe, -⟩ := commandFrame i s t hx
    rw [hframe]
  · rfl

/-- A step takes the oldest event from the stream. -/
theorem step_pending {s t : State} (h : step s = .next t) : t.pending = s.pending.tail := by
  cases hp : s.pending with
  | nil =>
    rw [noEventNoChange s hp] at h
    cases h
    exact hp
  | cons e rest =>
    rw [step_cons hp] at h
    exact takeEvent_pending h

/-- The stream holds resets and accesses inside the interface, and no unchecked composite. -/
def CheckedStream (c : Config) (l : List Event) : Prop :=
  ∀ e ∈ l, e = .reset ∨ ∃ a, e = .access a ∧ a.wellFormed c = true ∧
    ∀ (w : Word) (i : Instr), e = commandEvent c w → decode w = .ok i → ¬ Instr.IsCompu i

/-- With a checked stream pending a step neither faults nor is refused. -/
theorem step_completes_of_checked {s : State} (h : CheckedStream s.config s.pending) :
    ∃ t, step s = .next t := by
  obtain ⟨hfault, hrefused⟩ := stepStopsOnlyWhereUndefined s
  cases hs : step s with
  | next t => exact ⟨t, rfl⟩
  | fault f =>
    obtain ⟨i, hi, ⟨c, hsee, hd⟩, -⟩ := hfault.1 ⟨f, hs⟩
    obtain hreset | ⟨-, -, -, hchecked⟩ := h _ (List.mem_of_head? hsee)
    · cases hreset
    · exact absurd hi (hchecked c i rfl hd)
  | refused r =>
    obtain ⟨a, hsee, hbad⟩ := hrefused.1 ⟨r, hs⟩
    obtain hreset | ⟨b, hb, hw, -⟩ := h _ (List.mem_of_head? hsee)
    · cases hreset
    · cases hb
      cases hbad.symm.trans hw

/-- A step leaves a checked stream checked. -/
theorem CheckedStream.of_step {s t : State} (h : CheckedStream s.config s.pending)
    (hstep : step s = .next t) : CheckedStream t.config t.pending := by
  obtain ⟨hconfig, -⟩ := configurationNeverChanges s t hstep
  rw [hconfig, step_pending hstep]
  exact fun e he => h e (List.mem_of_mem_tail he)

/-- Settles O49, by induction on the number of steps: each completes and leaves a checked stream. -/
theorem checkedStreamNeverStops : Obligations.CheckedStreamNeverStops := by
  intro s k h
  induction k generalizing s with
  | zero => exact ⟨s, run_zero s, rfl⟩
  | succ k ih =>
    obtain ⟨u, hstep⟩ := step_completes_of_checked h
    obtain ⟨t, hrun, hpending⟩ := ih u (CheckedStream.of_step h hstep)
    refine ⟨t, (run_succ k hstep).trans hrun, ?_⟩
    rw [hpending, step_pending hstep, List.drop_tail]

/-! ### What changes a pixel -/

section
variable {s t : State} {j : Nat}

theorem hostRead_pixel (off : Nat) (s : State) (j : Nat) :
    (hostRead (regAt off) s).2.pixel j = s.pixel j := by
  obtain hsame | ⟨-, i, hidx⟩ := hostRead_state_cases off s
  · rw [hsame]
  · rw [hidx, State.setFbidx_pixel]

theorem hostWrite_pixel {off : Nat} {v : Word} (h₀ : 0 < off)
    (h : hostWrite (regAt off) v s = .next t) : t.pixel j = s.pixel j := by
  obtain ⟨-, rfl⟩ | ⟨-, rfl⟩ | ⟨-, rfl⟩ | ⟨-, rfl⟩ | ⟨-, rfl⟩ | rfl := hostWrite_next_cases h₀ h <;> rfl

/-- A command that changes a pixel is CLR, or draws at that pixel. -/
theorem exec_pixel_cases {i : Instr} (h : exec i s = .next t) (hne : t.pixel j ≠ s.pixel j) :
    i = .clr ∨ (i = .pwr ∨ Instr.IsComp i ∨ Instr.IsCompu i) ∧ s.InBounds ∧ j = s.pixelIndex := by
  obtain ⟨rfl, -, -⟩ | ⟨w, hb, rfl, hi⟩ | ⟨hi, -⟩ | ⟨-, rfl⟩ := exec_next_cases h
  · exact absurd rfl hne
  · exact .inr ⟨hi, hb, by_contra fun hj => hne (s.setPixel_pixel_other w hj)⟩
  · exact .inl hi
  · exact absurd rfl hne

end

/-- Settles O33: of what a step can do only a reset and a command reach the framebuffer. -/
theorem pixelsChangeOnlyByDrawingCommands : Obligations.PixelsChangeOnlyByDrawingCommands := by
  intro s t j hstep hne
  obtain ⟨-, rfl⟩ | ⟨hsee, -⟩ | ⟨off, -, -, -, rfl⟩ | ⟨off, v, -, h₀, -, -, hw⟩ | ⟨i, hsee, hx⟩ | ⟨-, rfl⟩ :=
    step_next_cases hstep
  · exact absurd rfl hne
  · exact .inl hsee
  · exact absurd (hostRead_pixel off s.popped j) hne
  · exact absurd (hostWrite_pixel (s := s.popped) h₀ hw) hne
  · obtain rfl | ⟨hi, hb, hj⟩ := exec_pixel_cases (s := s.popped) hx hne
    · exact .inr (.inl hsee)
    · exact .inr (.inr ⟨i, hsee, hi, hb, hj⟩)
  · exact absurd rfl hne

/-! ### Repetition -/

/-- Storing the same word again changes nothing. -/
theorem Memory.write_write_self (m : Memory) (i : Nat) (w : Word) :
    Memory.write (Memory.write m i w) i w = Memory.write m i w := by
  induction m with
  | nil => simp [Memory.write]
  | cons p m ih =>
    obtain ⟨j, v⟩ := p
    by_cases h₁ : j = i
    · simp [Memory.write, h₁]
    · by_cases h₂ : i < j
      · simp [Memory.write, h₁, h₂]
      · simp [Memory.write, h₁, h₂, ih]

theorem State.setPixel_setPixel_self (s : State) (i : Nat) (w : Word) :
    (s.setPixel i w).setPixel i w = s.setPixel i w := by
  rw [State.setPixel, State.setPixel_fb, Memory.write_write_self]
  rfl

theorem writeOneToClear_idem (st v : Word) :
    writeOneToClear (writeOneToClear st v) v = writeOneToClear st v := by
  unfold writeOneToClear
  split_ifs
  · rw [clearIll, clearIll, BitVec.and_assoc, BitVec.and_self]
  · rfl

theorem State.acknowledge_acknowledge_self (s : State) (v : Word) :
    (s.acknowledge v).acknowledge v = s.acknowledge v :=
  congrArg s.setStatus (writeOneToClear_idem s.status v)

theorem execPwr_idem {s t : State} (h : execPwr s = .next t) : execPwr t = .next t := by
  unfold execPwr at h
  split_ifs at h with hb <;> cases h
  · exact (if_pos hb).trans (congrArg _ (s.setPixel_setPixel_self _ _))
  · exact if_neg hb

theorem execPrd_idem {s t : State} (h : execPrd s = .next t) : execPrd t = .next t := by
  unfold execPrd at h
  split_ifs at h with hb <;> cases h
  · exact if_pos hb
  · exact if_neg hb

/-- A composite in bounds is one application of its draw mode. -/
theorem exec_composite_inBounds {i : Instr} (h : Instr.IsComp i ∨ Instr.IsCompu i) :
    ∃ mode, ∀ s : State, s.InBounds → exec i s = .next (compositePixel mode s) := by
  obtain (rfl | rfl | rfl) | rfl | rfl | rfl := h
  · exact ⟨.opaqueMode, fun _ => compBody_inBounds _⟩
  · exact ⟨.blendMode, fun _ => compBody_inBounds _⟩
  · exact ⟨.additiveMode, fun _ => compBody_inBounds _⟩
  · exact ⟨.opaqueMode, fun _ => compuBody_inBounds _⟩
  · exact ⟨.blendMode, fun _ => compuBody_inBounds _⟩
  · exact ⟨.additiveMode, fun _ => compuBody_inBounds _⟩

theorem compositePixel_inBounds {s : State} (mode : DrawMode) (h : s.InBounds) :
    (compositePixel mode s).InBounds := by
  obtain ⟨-, hs⟩ | ⟨w, -, hs⟩ := compositePixel_cases mode s <;> rw [hs] <;> exact h

/-- A half-transparent grey at intensity 0.5 to be drawn at (0, 0), which holds opaque black. -/
def greyOverBlack : State :=
  { State.reset with color := 0x80404040, inten := 0x00008000, fb := [(0, 0xFF000000)] }

/-- In every draw mode the second composite of the grey changes the pixel once more. -/
theorem compositePixel_greyOverBlack_again (mode : DrawMode) :
    (compositePixel mode (compositePixel mode greyOverBlack)).pixel greyOverBlack.pixelIndex ≠
      (compositePixel mode greyOverBlack).pixel greyOverBlack.pixelIndex := by
  cases mode <;> decide

/-- Settles O29: what NOP, CLR, PWR, PRD and a register write store does not depend on what they stored
before, while each composite draws the grey of `greyOverBlack` over its own result. -/
theorem repeatableCommandsAreIdempotent : Obligations.RepeatableCommandsAreIdempotent := by
  refine ⟨fun i s t hi h => ?_, fun r v s t hr h => ?_, fun i hi => ?_⟩
  · obtain rfl | rfl | rfl | rfl := hi
    · cases h; rfl
    · cases h; rfl
    · exact execPwr_idem h
    · exact execPrd_idem h
  · cases r with
    | cmd => exact absurd rfl hr
    | status =>
      cases h
      exact congrArg Host.Outcome.next (s.acknowledge_acknowledge_self v)
    | _ => cases h; rfl
  · have hb : greyOverBlack.InBounds := by decide
    obtain ⟨mode, hexec⟩ := exec_composite_inBounds hi
    exact ⟨greyOverBlack, _, _, hexec _ hb, hexec _ (compositePixel_inBounds mode hb),
      compositePixel_greyOverBlack_again mode⟩

/-! ### The readout port -/

section
variable {s : State} {rest : List Event} {k : Nat}

/-- The state after `n` reads of the port from index `k`. -/
def State.readout (s : State) (rest : List Event) (k n : Nat) : State :=
  { s with
    pending := rest
    returned := s.returned ++ (List.range' k n).map s.pixel
    fbidx := BitVec.ofNat 32 ((k + n) % s.config.pixels) }

/-- Reads from where earlier reads stopped are one longer run of reads. -/
theorem State.readout_readout (s : State) (l rest : List Event) (k m n : Nat) :
    (s.readout l k m).readout rest (k + m) n = s.readout rest k (m + n) := by
  have hreturned : s.returned ++ (List.range' k m).map s.pixel ++ (List.range' (k + m) n).map s.pixel =
      s.returned ++ (List.range' k (m + n)).map s.pixel := by
    rw [List.append_assoc, ← List.map_append, List.range'_append_1]
  rw [State.readout, State.readout, State.readout, ← hreturned, ← Nat.add_assoc]
  rfl

/-- No read leaves a state whose FBIDX is `k` (mod `N`). -/
theorem State.readout_zero (hidx : s.fbidx = BitVec.ofNat 32 (k % s.config.pixels)) :
    s.readout s.pending k 0 = s := by
  simp [State.readout, ← hidx]

/-- The port inside the framebuffer: the pixel at FBIDX, and FBIDX advanced with wrap. -/
theorem step_readout_inside (hp : s.pending = rd s.config 0x20 :: rest)
    (h : s.fbidx.toNat < s.config.pixels) : step s = .next (s.readout rest s.fbidx.toNat 1) := by
  have hport : hostRead (regAt 0x20) (s.setPending rest) = _ := if_pos h
  rw [step_read hp rfl (by decide), hport]
  rfl

/-- The port beyond the framebuffer: 0, and no change. -/
theorem step_readout_outside (hp : s.pending = rd s.config 0x20 :: rest)
    (h : s.config.pixels ≤ s.fbidx.toNat) : step s = .next ((s.setPending rest).answer 0) := by
  have hport : hostRead (regAt 0x20) (s.setPending rest) = (0, s.setPending rest) := if_neg h.not_gt
  rw [step_read hp rfl (by decide), hport]

/-- An index below `N` fits FBIDX. -/
theorem toNat_ofNat_mod_pixels {c : Config} (hc : c.Legal) (k : Nat) :
    (BitVec.ofNat 32 (k % c.pixels)).toNat = k % c.pixels := by
  have hpos : 0 < c.pixels := by
    obtain ⟨hw, -, hh, -, -⟩ := hc
    exact Nat.mul_pos hw hh
  have hmod := Nat.mod_lt k hpos
  have hmax := hc.pixels_le
  rw [BitVec.toNat_ofNat, Nat.mod_eq_of_lt (by omega)]

/-- `n` reads from index `k` that do not pass the end return the pixels from `k` on. -/
theorem run_readout (n : Nat) (hc : s.config.Legal)
    (hidx : s.fbidx = BitVec.ofNat 32 (k % s.config.pixels)) (hend : k + n ≤ s.config.pixels)
    (hp : s.pending = List.replicate n (rd s.config 0x20) ++ rest) :
    Host.Core.run Sys2Proof.core n s = .next (s.readout rest k n) := by
  induction n generalizing s k with
  | zero =>
    obtain rfl : s.pending = rest := hp
    rw [run_zero, State.readout_zero hidx]
  | succ n ih =>
    have hk : s.fbidx.toNat = k := by
      rw [hidx, toNat_ofNat_mod_pixels hc, Nat.mod_eq_of_lt (by omega)]
    have hstep := step_readout_inside (rest := List.replicate n (rd s.config 0x20) ++ rest) hp (by omega)
    have hend' : k + 1 + n ≤ s.config.pixels := by omega
    rw [hk] at hstep
    rw [run_succ n hstep, Nat.add_comm n 1, ← State.readout_readout]
    exact ih hc rfl hend' rfl

end

/-- Settles O39: the two ranges of the port, and its run over the whole grid, after which FBIDX has
wrapped to 0. -/
theorem readoutReturnsWholeGrid : Obligations.ReadoutReturnsWholeGrid := by
  refine ⟨fun s rest hc hp => ⟨fun hin => ?_, step_readout_outside hp⟩, fun s rest hc hidx hp => ?_⟩
  · exact ⟨_, step_readout_inside hp hin, rfl, toNat_ofNat_mod_pixels hc _⟩
  · rw [run_readout s.config.pixels (k := 0) hc (by rw [hidx, Nat.zero_mod]; rfl) (by omega) hp]
    simp [State.readout, List.range_eq_range', hidx]

end Sys2Proof.Machine

/-! SUPPORT. The family of spec/30_encoding.md: the decoder against the table of match and mask (R84, R85),
the illegal words (R86), the registers a command reads (R83) and runs of pseudo-instructions (R90). -/

namespace Sys2Proof

section
variable {c d : Word} {i : Instr}

/-! ### The fields of a command word -/

/-- A word is its three fields (R80). -/
theorem eq_of_fields (hrsv : rsvField c = rsvField d) (hmode : modeField c = modeField d)
    (hop : opField c = opField d) : c = d := by
  simp only [rsvField, modeField, opField, toNat_extract] at hrsv hmode hop
  have hc := c.isLt
  have hd := d.isLt
  exact BitVec.eq_of_toNat_eq (by omega)

theorem rsvField_eq_div (c : Word) : rsvField c = c.toNat / 64 := by
  have hc := c.isLt
  rw [rsvField, toNat_extract]
  omega

theorem modeField_eq_div_mod (c : Word) : modeField c = c.toNat / 16 % 4 := toNat_extract c 4 2

theorem opField_eq_mod (c : Word) : opField c = c.toNat % 16 := by
  rw [opField, toNat_extract, pow_zero, Nat.div_one]
  rfl

/-! ### Match and mask -/

theorem modeField_and (c d : Word) : modeField (c &&& d) = modeField c &&& modeField d := by
  rw [modeField, BitVec.extractLsb'_and, BitVec.toNat_and]
  rfl

/-- Every row's mask looks at all of RSV. -/
theorem rsvField_and_opcodeMask (c : Word) (i : Instr) : rsvField (c &&& opcodeMask i) = rsvField c := by
  have hmask : (opcodeMask i).extractLsb' 6 26 = BitVec.allOnes 26 := by cases i <;> rfl
  rw [rsvField, BitVec.extractLsb'_and, hmask, BitVec.and_allOnes]
  rfl

/-- Every row's mask looks at all of OP. -/
theorem opField_and_opcodeMask (c : Word) (i : Instr) : opField (c &&& opcodeMask i) = opField c := by
  have hmask : (opcodeMask i).extractLsb' 0 4 = BitVec.allOnes 4 := by cases i <;> rfl
  rw [opField, BitVec.extractLsb'_and, hmask, BitVec.and_allOnes]
  rfl

theorem rsvField_encode (i : Instr) : rsvField (encode i) = 0 := by
  cases i <;> rfl

/-- A word matches the row whose fields it has, MODE as far as the row's mask looks at it. -/
theorem match_iff_fields (c : Word) (i : Instr) : c &&& opcodeMask i = encode i ↔
    rsvField c = 0 ∧ opField c = opField (encode i) ∧
      modeField c &&& modeField (opcodeMask i) = modeField (encode i) := by
  rw [← rsvField_and_opcodeMask c i, ← opField_and_opcodeMask c i, ← modeField_and,
    ← rsvField_encode i]
  exact ⟨fun h => by simp [h], fun ⟨hrsv, hop, hmode⟩ => eq_of_fields hrsv hmode hop⟩

/-- A row has one of the operations 0 to 5; where it looks at MODE, its MODE is not 3 (R85). -/
theorem row_fields (i : Instr) : opField (encode i) < 6 ∧
    (opField (encode i) = 1 ∨ opField (encode i) = 2 →
      modeField (opcodeMask i) = 3 ∧ modeField (encode i) ≠ 3) := by
  cases i <;> decide

/-! ### The decoder by fields -/

/-- MODE is reserved, or selects one of three commands; the word matches that one's row when it matches
the row of each for its mode. -/
theorem decodeMode_cases (o b a : Instr) (ho : modeField c = 0 → c &&& opcodeMask o = encode o)
    (hb : modeField c = 1 → c &&& opcodeMask b = encode b)
    (ha : modeField c = 2 → c &&& opcodeMask a = encode a) :
    (3 ≤ modeField c ∧ decodeMode (modeField c) o b a = .error .reservedMode) ∨
    ∃ i, c &&& opcodeMask i = encode i ∧ decodeMode (modeField c) o b a = .ok i := by
  unfold decodeMode
  split
  case h_1 hm => exact .inr ⟨o, ho hm, rfl⟩
  case h_2 hm => exact .inr ⟨b, hb hm, rfl⟩
  case h_3 hm => exact .inr ⟨a, ha hm, rfl⟩
  case h_4 h₀ h₁ h₂ => exact .inl ⟨by grind, rfl⟩

/-- What the decoder can answer: an error for one of the reasons of R86, or a command whose row the
word matches. -/
theorem decode_cases (c : Word) :
    (rsvField c ≠ 0 ∧ decode c = .error .reservedBits) ∨
    (6 ≤ opField c ∧ decode c = .error .reservedOp) ∨
    ((opField c = 1 ∨ opField c = 2) ∧ 3 ≤ modeField c ∧ decode c = .error .reservedMode) ∨
    ∃ i, c &&& opcodeMask i = encode i ∧ decode c = .ok i := by
  by_cases hrsv : rsvField c = 0
  case neg => exact .inl ⟨hrsv, if_pos hrsv⟩
  have hrow {i : Instr} (hop : opField c = opField (encode i))
      (hmode : modeField c &&& modeField (opcodeMask i) = modeField (encode i)) :=
    (match_iff_fields c i).2 ⟨hrsv, hop, hmode⟩
  right
  unfold decode
  rw [if_neg (not_not.2 hrsv)]
  split
  case h_1 hop => exact .inr (.inr ⟨.nop, hrow hop (Nat.and_zero _), rfl⟩)
  case h_2 hop =>
    refine .inr ((decodeMode_cases .compOpaque .compBlend .compAdd ?_ ?_ ?_).imp_left (.intro (.inl hop)))
    all_goals exact fun hm => hrow hop (by rw [hm]; rfl)
  case h_3 hop =>
    refine .inr ((decodeMode_cases .compuOpaque .compuBlend .compuAdd ?_ ?_ ?_).imp_left (.intro (.inr hop)))
    all_goals exact fun hm => hrow hop (by rw [hm]; rfl)
  case h_4 hop => exact .inr (.inr ⟨.clr, hrow hop (Nat.and_zero _), rfl⟩)
  case h_5 hop => exact .inr (.inr ⟨.pwr, hrow hop (Nat.and_zero _), rfl⟩)
  case h_6 hop => exact .inr (.inr ⟨.prd, hrow hop (Nat.and_zero _), rfl⟩)
  case h_7 h₀ h₁ h₂ h₃ h₄ h₅ => exact .inl ⟨by grind, rfl⟩

/-- Where the decoder ignores MODE (R84). -/
theorem decode_ignores_mode (hc : rsvField c = 0) (hd : rsvField d = 0) (hop : opField c = opField d)
    (hign : opField c = 0 ∨ 3 ≤ opField c) : decode c = decode d := by
  unfold decode
  rw [if_neg (not_not.2 hc), if_neg (not_not.2 hd), ← hop]
  split
  case h_2 | h_3 => omega
  all_goals rfl

/-- A row that looks at the whole word is its own word; the others leave only MODE open, which the decoder
ignores there. -/
theorem decode_of_match (h : c &&& opcodeMask i = encode i) : decode c = .ok i := by
  obtain ⟨hrsv, hop, -⟩ := (match_iff_fields c i).1 h
  rw [← decode_encode i]
  cases i with
  | nop | clr | pwr | prd => exact decode_ignores_mode hrsv rfl hop (by rw [hop]; decide)
  | _ => exact congrArg decode (BitVec.and_allOnes.symm.trans h)

theorem decode_ok_iff_match (c : Word) (i : Instr) :
    decode c = .ok i ↔ c &&& opcodeMask i = encode i := by
  refine ⟨fun h => ?_, decode_of_match⟩
  obtain ⟨-, hx⟩ | ⟨-, hx⟩ | ⟨-, -, hx⟩ | ⟨j, hj, hx⟩ := decode_cases c
  · cases hx.symm.trans h
  · cases hx.symm.trans h
  · cases hx.symm.trans h
  · cases hx.symm.trans h
    exact hj

theorem decode_error_iff (c : Word) : (∃ e, decode c = .error e) ↔
    rsvField c ≠ 0 ∨ 6 ≤ opField c ∨ (opField c = 1 ∨ opField c = 2) ∧ modeField c = 3 := by
  constructor
  · rintro ⟨e, he⟩
    obtain ⟨hrsv, -⟩ | ⟨hop, -⟩ | ⟨hop, hmode, -⟩ | ⟨i, -, hx⟩ := decode_cases c
    · exact .inl hrsv
    · exact .inr (.inl hop)
    · have hlt : modeField c < 4 := BitVec.isLt _
      exact .inr (.inr ⟨hop, by omega⟩)
    · cases he.symm.trans hx
  · intro h
    obtain ⟨-, hx⟩ | ⟨-, hx⟩ | ⟨-, -, hx⟩ | ⟨i, hi, -⟩ := decode_cases c
    · exact ⟨_, hx⟩
    · exact ⟨_, hx⟩
    · exact ⟨_, hx⟩
    · obtain ⟨hrsv, hop, hmode⟩ := (match_iff_fields c i).1 hi
      obtain ⟨hlt, hmask⟩ := row_fields i
      rw [← hop] at hlt hmask
      obtain h | h | ⟨h₁, h₃⟩ := h
      · exact absurd hrsv h
      · omega
      · obtain ⟨hm, hne⟩ := hmask h₁
        rw [h₃, hm] at hmode
        exact absurd hmode.symm hne

end

/-- Settles O1: both sides say that the word's fields are those of the row, MODE as far as the row's mask
looks at it; and a word decodes to one command only. -/
theorem decodeSelectsRowByMatchAndMask : Obligations.DecodeSelectsRowByMatchAndMask := by
  refine ⟨decode_ok_iff_match, fun c i j hi hj => ?_⟩
  exact Except.ok.inj ((decode_of_match hi).symm.trans (decode_of_match hj))

/-- Settles O3: each word's fields are literals, and the decoder computes on them. -/
theorem tableWordsDecode : Obligations.TableWordsDecode :=
  ⟨rfl, rfl, rfl, rfl, rfl, rfl, rfl, rfl⟩

/-- Settles O4: the decoder's three errors are the reserved encodings, and their CMD write raises the
illegal-command condition. -/
theorem illegalWordsOnlySetIll : Obligations.IllegalWordsOnlySetIll := by
  refine ⟨fun c => ?_, fun c d hc hd hop hign => ?_, fun s c rest hp ⟨e, he⟩ => ?_⟩
  · rw [← rsvField_eq_div, ← opField_eq_mod, ← modeField_eq_div_mod]
    exact decode_error_iff c
  · rw [← rsvField_eq_div] at hc hd
    rw [← opField_eq_mod] at hop hign
    rw [← opField_eq_mod] at hop
    exact decode_ignores_mode hc hd hop hign
  · exact (Machine.step_write (off := 0) hp rfl (by decide)).trans (Machine.command_illegal he _)

end Sys2Proof

namespace Sys2Proof.Machine

/-! ### The registers a command does not read -/

section
variable {s t : State}

/-- RESULT and FBIDX are no operands of a composite. -/
theorem compositePixel_setResult_setFbidx (mode : DrawMode) (s : State) (a b : Word) :
    compositePixel mode ((s.setResult a).setFbidx b) =
      ((compositePixel mode s).setResult a).setFbidx b := by
  simp only [compositePixel, State.setFbidx_config, State.setFbidx_color, State.setFbidx_pixel,
    State.setFbidx_pixelIndex, State.setFbidx_intensity, State.setResult_config, State.setResult_color,
    State.setResult_pixel, State.setResult_pixelIndex, State.setResult_intensity]
  split <;> rfl

theorem exec_comp_outside {i : Instr} (hi : Instr.IsComp i) (hb : ¬ s.InBounds) : exec i s = .next s := by
  obtain rfl | rfl | rfl := hi <;> exact compBody_outside _ hb

/-- Out of bounds COMP does nothing and COMPU does not complete; in bounds both draw. -/
theorem exec_composite_setResult_setFbidx {i : Instr} (hi : Instr.IsComp i ∨ Instr.IsCompu i)
    (h : exec i s = .next t) (a b : Word) :
    exec i ((s.setResult a).setFbidx b) = .next ((t.setResult a).setFbidx b) := by
  by_cases hb : s.InBounds
  · obtain ⟨mode, hexec⟩ := exec_composite_inBounds hi
    rw [hexec s hb] at h
    cases h
    rw [hexec _ (by simpa using hb), compositePixel_setResult_setFbidx]
  · obtain hi | hi := hi
    · cases (exec_comp_outside hi hb).symm.trans h
      exact exec_comp_outside hi hb
    · obtain ⟨f, hf⟩ := exec_fault_iff.2 ⟨hi, hb⟩
      cases hf.symm.trans h

theorem execPwr_setResult_setFbidx (h : execPwr s = .next t) (a b : Word) :
    execPwr ((s.setResult a).setFbidx b) = .next ((t.setResult a).setFbidx b) := by
  unfold execPwr at h
  split_ifs at h with hb <;> cases h
  · exact if_pos hb
  · exact if_neg hb

theorem execPrd_setResult_setFbidx (h : execPrd s = .next t) (a b : Word) :
    execPrd ((s.setResult a).setFbidx b) = .next (t.setFbidx b) := by
  unfold execPrd at h
  split_ifs at h with hb <;> cases h
  · exact if_pos hb
  · exact if_neg hb

end

/-- Settles O28: the bounds test and the drawing look at none of the named registers, so with other values in
them each command takes the same branch; RESULT is set by PRD alone, FBIDX by none. -/
theorem commandsIgnoreUnusedRegisters : Obligations.CommandsIgnoreUnusedRegisters := by
  intro s a b
  refine ⟨?_, ?_, ⟨_, rfl, rfl⟩, fun i t h => ?_⟩
  · by_cases hb : s.InBounds
    · exact ⟨_, if_pos hb, if_pos hb⟩
    · exact ⟨_, if_neg hb, if_neg hb⟩
  · by_cases hb : s.InBounds
    · exact ⟨_, if_pos hb, if_pos hb⟩
    · exact ⟨_, if_neg hb, if_neg hb⟩
  · cases i with
    | nop | clr => cases h; rfl
    | pwr => exact execPwr_setResult_setFbidx h a b
    | prd => exact execPrd_setResult_setFbidx h a b
    | _ => exact exec_composite_setResult_setFbidx (by simp [Instr.IsComp, Instr.IsCompu]) h a b

/-! ### Runs of pseudo-instructions -/

section
variable {s t : State} {rest : List Event} {x y : Int}

/-- The word write at a register's offset is the write of that register. -/
theorem step_wr {r : Reg} {v : Word} (hp : s.pending = wr s.config r.offset v :: rest) :
    step s = hostWrite (some r) v (s.setPending rest) := by
  rw [step_write hp (by cases r <;> rfl) (by cases r <;> decide)]
  cases r <;> rfl

/-- The word read at a register's offset answers that register. -/
theorem step_rd {r : Reg} (hp : s.pending = rd s.config r.offset :: rest) :
    step s = .next ((hostRead (some r) (s.setPending rest)).2.answer
      (hostRead (some r) (s.setPending rest)).1) := by
  rw [step_read hp (by cases r <;> rfl) (by cases r <;> decide)]
  cases r <;> rfl

/-- A command mnemonic runs its command. -/
theorem step_mnemonic {i : Instr} (hp : s.pending = mnemonic s.config i :: rest) :
    step s = exec i (s.setPending rest) :=
  (step_cons hp).trans (takeEvent_command (decode_encode i) _)

/-- The coordinates of `xy(x, y)` (R90) are read back when they fit 16 bits with their sign. -/
theorem State.x_packXy (h : s.xy = packXy x y) (hlow : -32768 ≤ x) (hhigh : x < 32768) : s.x = x := by
  rw [State.x, h, packXy, BitVec.extractLsb'_append_eq_right]
  exact BitVec.toInt_ofInt_eq_self (by decide) hlow hhigh

theorem State.y_packXy (h : s.xy = packXy x y) (hlow : -32768 ≤ y) (hhigh : y < 32768) : s.y = y := by
  rw [State.y, h, packXy, BitVec.extractLsb'_append_eq_left]
  exact BitVec.toInt_ofInt_eq_self (by decide) hlow hhigh

theorem State.inBounds_packXy (h : s.xy = packXy x y) (hc : s.config.Legal) (hx : 0 ≤ x)
    (hxw : x < s.config.width) (hy : 0 ≤ y) (hyh : y < s.config.height) : s.InBounds := by
  obtain ⟨-, hw, -, hh, -⟩ := hc
  rw [State.InBounds, State.x_packXy h (by omega) (by omega), State.y_packXy h (by omega) (by omega)]
  exact ⟨hx, hxw, hy, hyh⟩

/-- The operand writes of BLEND and BLENDU leave their values in XY, COLOR and INTEN. -/
theorem run_operandWrites {color inten : Word} (k : Nat)
    (hp : s.pending = operandWrites s.config x y color inten ++ rest) :
    Host.Core.run Sys2Proof.core (k + 3) s = Host.Core.run Sys2Proof.core k
      ((((s.setPending rest).setXy (packXy x y)).setColor color).setInten inten) :=
  (run_succ (k + 2) (step_wr (r := .xy) hp)).trans
    ((run_succ (k + 1) (step_wr (r := .color) rfl)).trans (run_succ k (step_wr (r := .inten) rfl)))

theorem exec_pwr_inBounds (hb : s.InBounds) : exec .pwr s = .next (s.setPixel s.pixelIndex s.color) :=
  if_pos hb

theorem exec_prd_inBounds (hb : s.InBounds) : exec .prd s = .next (s.setResult (s.pixel s.pixelIndex)) :=
  if_pos hb

/-- SETPX in bounds stores the colour at the pixel its coordinates name. -/
theorem run_setpx {color : Word} (k : Nat)
    (hp : s.pending = (Pseudo.setpx x y color).expand s.config ++ rest)
    (hb : (s.setXy (packXy x y)).InBounds) :
    Host.Core.run Sys2Proof.core (k + 3) s = Host.Core.run Sys2Proof.core k
      ((((s.setPending rest).setXy (packXy x y)).setColor color).setPixel
        (s.setXy (packXy x y)).pixelIndex color) := by
  refine (run_succ (k + 2) (step_wr (r := .xy) hp)).trans ?_
  refine (run_succ (k + 1) (step_wr (r := .color) rfl)).trans ?_
  refine run_succ k ((step_mnemonic (i := .pwr) rfl).trans ?_)
  exact exec_pwr_inBounds hb

/-- CLEAR makes every pixel its colour with alpha 255. -/
theorem run_clear {color : Word} (k : Nat)
    (hp : s.pending = (Pseudo.clear color).expand s.config ++ rest) :
    Host.Core.run Sys2Proof.core (k + 2) s = Host.Core.run Sys2Proof.core k
      (((s.setPending rest).setColor color).fillPixels (clearWord s.config color)) :=
  (run_succ (k + 1) (step_wr (r := .color) hp)).trans (run_succ k (step_mnemonic (i := .clr) rfl))

/-- GETPX in bounds puts the pixel its coordinates name into RESULT and answers it. -/
theorem run_getpx (hp : s.pending = (Pseudo.getpx x y).expand s.config ++ rest)
    (hb : (s.setXy (packXy x y)).InBounds) :
    Host.Core.run Sys2Proof.core 3 s = .next
      ((((s.setPending rest).setXy (packXy x y)).setResult
        (s.pixel (s.setXy (packXy x y)).pixelIndex)).answer
          (s.pixel (s.setXy (packXy x y)).pixelIndex)) := by
  refine (run_succ 2 (step_wr (r := .xy) hp)).trans ?_
  refine (run_succ 1 ((step_mnemonic (i := .prd) rfl).trans (exec_prd_inBounds ?_))).trans ?_
  · exact hb
  refine (run_one _).trans ?_
  exact step_rd (r := .result) rfl

end

/-- Settles O46: after the three operand writes the command mnemonic runs on what they wrote, and
coordinates in the s16 range are read back from XY. -/
theorem blendSequenceUsesItsOperands : Obligations.BlendSequenceUsesItsOperands := by
  intro s m x y color inten rest hx hx' hy hy' hp
  rw [Pseudo.expand, List.append_assoc] at hp
  refine ⟨(((s.setPending rest).setXy (packXy x y)).setColor color).setInten inten, ?_, rfl,
    State.x_packXy rfl hx hx', State.y_packXy rfl hy hy', rfl⟩
  exact (run_operandWrites 1 hp).trans ((run_one _).trans (step_mnemonic rfl))

/-- Settles O47: GETPX names the pixel SETPX stored the colour at. -/
theorem setThenGetReturnsColour : Obligations.SetThenGetReturnsColour := by
  intro s x y color rest hc hx hxw hy hyh hp
  rw [List.append_assoc] at hp
  have hb : (s.setXy (packXy x y)).InBounds := State.inBounds_packXy rfl hc hx hxw hy hyh
  refine ⟨_, (run_setpx 3 hp hb).trans (run_getpx rfl hb), rfl, ?_⟩
  exact congrArg (s.returned ++ [·]) (State.setPixel_pixel_self ..)

/-- Settles O48: the pixel GETPX names is one of those CLEAR filled. -/
theorem clearThenGetReturnsOpaqueColour : Obligations.ClearThenGetReturnsOpaqueColour := by
  intro s x y color rest hc hx hxw hy hyh hp
  rw [List.append_assoc] at hp
  have hb : (s.setXy (packXy x y)).InBounds := State.inBounds_packXy rfl hc hx hxw hy hyh
  refine ⟨_, (run_clear 3 hp).trans (run_getpx rfl hb), rfl, ?_⟩
  exact congrArg (s.returned ++ [·]) (State.fillPixels_pixel _ _ (State.pixelIndex_lt hb))

end Sys2Proof.Machine

/-! SUPPORT. The family of spec/40_composite.md: the compositor's arithmetic (R100-R108), the lanes of a
composite (R109), full intensity (R111) and the commands COMP and COMPU (R120-R133). -/

namespace Sys2Proof.Machine

/-! ### Scaling and the weights -/

/-- Settles O10: the shift is a division by 65536, whose remainder bounds the rounding error. -/
theorem scaleRoundsHalfUp : Obligations.ScaleRoundsHalfUp := by
  intro v ic hv _ hic
  have hprod : v * ic ≤ 255 * 65536 := Nat.mul_le_mul hv hic
  have hscale := scale8_eq_div v ic
  exact ⟨hscale, by omega, by omega, by omega, by omega⟩

/-- At intensity 1.0 nothing is scaled. -/
theorem scale8_one (v : Nat) : scale8 v 65536 = v := by rw [scale8_eq_div]; omega

theorem scale8_zero (ic : Nat) : scale8 0 ic = 0 := by rw [scale8_eq_div, Nat.zero_mul]

theorem eaOpaque_eq_div (ic : Nat) : eaOpaque ic = (255 * ic + 32768) / 65536 := scale8_eq_div 255 ic

theorem eaOpaque_eq_zero_iff (ic : Nat) : eaOpaque ic = 0 ↔ ic ≤ 128 := by
  rw [eaOpaque_eq_div]; omega

theorem eaOpaque_eq_full {ic : Nat} (h : 65408 ≤ ic) (hic : ic ≤ 65536) : eaOpaque ic = 255 := by
  rw [eaOpaque_eq_div]; omega

/-- Settles O11: the thresholds are those of the quotient `(255 * ic + 32768) / 65536`. -/
theorem opaqueWeightThresholds : Obligations.OpaqueWeightThresholds := by
  refine fun ic _ hic => ⟨eaOpaque_eq_zero_iff ic, ?_, ?_, fun h => eaOpaque_eq_full h hic⟩
  · rintro rfl; rfl
  · rintro rfl; rfl

theorem eaOpaque_le {ic : Nat} (h : ic ≤ 65536) : eaOpaque ic ≤ 255 :=
  Nat.le_of_lt_succ (scale8_lt (by decide) h)

theorem eaBlend_le (c : Config) (src : Word) {ic : Nat} (h : ic ≤ 65536) : eaBlend c src ic ≤ 255 :=
  Nat.le_of_lt_succ (scale8_lt (c.packing.alpha_lt src) h)

/-! ### Interpolation and accumulation -/

/-- A sum with weights `ea` and `255 - ea` lies between its operands, in units of 255. -/
theorem weightedSum_between (s d : Nat) {ea : Nat} (h : ea ≤ 255) :
    min s d * 255 ≤ s * ea + d * (255 - ea) ∧ s * ea + d * (255 - ea) ≤ max s d * 255 := by
  have hsplit : ∀ m : Nat, m * 255 = m * ea + m * (255 - ea) := fun m => by
    rw [← Nat.mul_add, Nat.add_sub_cancel' h]
  constructor
  · rw [hsplit]
    exact Nat.add_le_add (Nat.mul_le_mul_right _ (min_le_left s d)) (Nat.mul_le_mul_right _ (min_le_right s d))
  · rw [hsplit]
    exact Nat.add_le_add (Nat.mul_le_mul_right _ (le_max_left s d)) (Nat.mul_le_mul_right _ (le_max_right s d))

/-- The model's sign and magnitude quotient truncates toward zero. -/
theorem sign_mul_natAbs_div (t : Int) : t.sign * ((t.natAbs / 255 : Nat) : Int) = t.tdiv 255 := by
  cases t with
  | ofNat m =>
    cases m with
    | zero => rfl
    | succ m => exact one_mul _
  | negSucc m => exact neg_one_mul _

/-- A fraction `ea / 255` of a distance, truncated, is no longer than the distance. -/
theorem tdiv_weighted_between {k : Int} {ea : Nat} (hk : 0 ≤ k) (h : ea ≤ 255) :
    0 ≤ (k * ea).tdiv 255 ∧ (k * ea).tdiv 255 ≤ k := by
  have hlow : 0 ≤ k * (ea : Int) := mul_nonneg hk (Int.natCast_nonneg ea)
  have hhigh : k * (ea : Int) ≤ k * 255 := mul_le_mul_of_nonneg_left (by omega) hk
  rw [Int.tdiv_eq_ediv_of_nonneg hlow]
  omega

/-- The truncated step from destination to source does not overshoot, in either direction. -/
theorem deltaTrunc_between (s d : Nat) {ea : Nat} (h : ea ≤ 255) :
    (min s d : Int) ≤ d + (((s : Int) - d) * ea).tdiv 255 ∧
      d + (((s : Int) - d) * ea).tdiv 255 ≤ (max s d : Int) := by
  obtain hle | hle := Nat.le_total d s
  · have hstep := tdiv_weighted_between (k := (s : Int) - d) (by omega) h
    omega
  · have hstep := tdiv_weighted_between (k := (d : Int) - s) (by omega) h
    have hflip : ((s : Int) - d) * ea = -(((d : Int) - s) * ea) := by ring
    rw [hflip, Int.neg_tdiv]
    omega

/-- `lerp8` is the formula of its form: in the second the sum is never negative. -/
theorem lerp8_lerpedChannel (form : LerpForm) (s d : Nat) {ea : Nat} (h : ea ≤ 255) :
    LerpedChannel form s d ea (lerp8 form s d ea) := by
  cases form with
  | weightedSum => rfl
  | deltaTrunc =>
    have hbetween := deltaTrunc_between s d h
    rw [LerpedChannel, lerp8, sign_mul_natAbs_div]
    omega

theorem lerp8_between (form : LerpForm) (s d : Nat) {ea : Nat} (h : ea ≤ 255) :
    min s d ≤ lerp8 form s d ea ∧ lerp8 form s d ea ≤ max s d := by
  have hformula := lerp8_lerpedChannel form s d h
  cases form with
  | weightedSum =>
    obtain ⟨hlow, hhigh⟩ := weightedSum_between s d h
    rw [LerpedChannel] at hformula
    omega
  | deltaTrunc =>
    obtain ⟨hlow, hhigh⟩ := deltaTrunc_between s d h
    rw [LerpedChannel] at hformula
    omega

theorem lerp8_lt {form : LerpForm} {s d ea : Nat} (hs : s < 256) (hd : d < 256) (h : ea ≤ 255) :
    lerp8 form s d ea < 256 :=
  (lerp8_between form s d h).2.trans_lt (max_lt hs hd)

/-- At full weight the source replaces the destination. -/
theorem lerp8_full (form : LerpForm) (s d : Nat) : lerp8 form s d 255 = s := by
  have hformula := lerp8_lerpedChannel form s d (le_refl 255)
  cases form with
  | weightedSum => rw [LerpedChannel] at hformula; omega
  | deltaTrunc =>
    rw [LerpedChannel, Nat.cast_ofNat, Int.mul_tdiv_cancel _ (by decide)] at hformula
    omega

/-- Settles O12: each form is its formula and stays between its operands, and the weighted sum is at most
255 times the larger of them. -/
theorem lerpLiesBetweenDestinationAndSource : Obligations.LerpLiesBetweenDestinationAndSource := by
  refine ⟨fun form s d ea hs hd _ h => ?_, by decide, by decide⟩
  obtain ⟨hlow, hhigh⟩ := lerp8_between form s d h
  refine ⟨lerp8_lerpedChannel form s d h, hlow, hhigh, ?_, ?_⟩
  · rintro rfl
    exact lerp8_full form s d
  · exact (weightedSum_between s d h).2.trans (Nat.mul_le_mul_right 255 (max_le hs hd))

/-- What the destination adds to the weight is at most what the weight leaves free. -/
theorem alpha_remainder_le {ea da : Nat} (hda : da ≤ 255) : da * (255 - ea) / 255 ≤ 255 - ea :=
  Nat.div_le_of_le_mul (Nat.mul_le_mul_right _ hda)

theorem alpha8_le {ea da : Nat} (h : ea ≤ 255) (hda : da ≤ 255) : alpha8 ea da ≤ 255 := by
  have hrest := alpha_remainder_le (ea := ea) hda
  unfold alpha8
  omega

theorem alpha8_full (da : Nat) : alpha8 255 da = 255 := by
  rw [alpha8, Nat.sub_self, Nat.mul_zero]

theorem alpha8_over_full {ea : Nat} (h : ea ≤ 255) : alpha8 ea 255 = 255 := by
  unfold alpha8
  omega

/-- Settles O13: the quotient is at most `255 - ea`, and equal to it over a full destination. -/
theorem alphaAccumulationStaysInByte : Obligations.AlphaAccumulationStaysInByte := by
  refine fun ea da _ h hda => ⟨rfl, alpha_remainder_le hda, alpha8_le h hda, ?_⟩
  rintro (rfl | rfl)
  · exact alpha8_full da
  · exact alpha8_over_full h

/-! ### The channels of a composite -/

section
variable (c : Config) (src dst : Word)

/-- No channel of the over-composite is cut when it is packed. -/
theorem overPixel_lanes {ea : Nat} (h : ea ≤ 255) :
    c.packing.alpha (overPixel c src dst ea) = alpha8 ea (c.packing.alpha dst) ∧
    c.packing.red (overPixel c src dst ea) = lerp8 c.lerpForm (c.packing.red src) (c.packing.red dst) ea ∧
    c.packing.green (overPixel c src dst ea) =
      lerp8 c.lerpForm (c.packing.green src) (c.packing.green dst) ea ∧
    c.packing.blue (overPixel c src dst ea) = lerp8 c.lerpForm (c.packing.blue src) (c.packing.blue dst) ea :=
  ⟨Packing.alpha_pack _ (Nat.lt_succ_of_le (alpha8_le h (Nat.le_of_lt_succ (c.packing.alpha_lt dst)))) ..,
    Packing.red_pack _ (lerp8_lt (c.packing.red_lt src) (c.packing.red_lt dst) h) ..,
    Packing.green_pack _ (lerp8_lt (c.packing.green_lt src) (c.packing.green_lt dst) h) ..,
    Packing.blue_pack _ (lerp8_lt (c.packing.blue_lt src) (c.packing.blue_lt dst) h) ..⟩

/-- No channel of the additive composite is cut when it is packed. -/
theorem additive_lanes (ic : Nat) :
    c.packing.alpha (additive c src dst ic) = c.packing.alpha dst ∧
    c.packing.red (additive c src dst ic) = add8 (c.packing.red src) (c.packing.red dst) ic ∧
    c.packing.green (additive c src dst ic) = add8 (c.packing.green src) (c.packing.green dst) ic ∧
    c.packing.blue (additive c src dst ic) = add8 (c.packing.blue src) (c.packing.blue dst) ic :=
  ⟨Packing.alpha_pack _ (c.packing.alpha_lt dst) .., Packing.red_pack _ (add8_lt ..) ..,
    Packing.green_pack _ (add8_lt ..) .., Packing.blue_pack _ (add8_lt ..) ..⟩

theorem overPixel_overChannels {ea : Nat} (h : ea ≤ 255) :
    OverChannels c src dst ea (overPixel c src dst ea) := by
  obtain ⟨ha, hr, hg, hb⟩ := overPixel_lanes c src dst h
  rw [OverChannels, ha, hr, hg, hb]
  exact ⟨rfl, lerp8_lerpedChannel _ _ _ h, lerp8_lerpedChannel _ _ _ h, lerp8_lerpedChannel _ _ _ h⟩

theorem scale8_eq_roundedProduct (v ic : Nat) : scale8 v ic = roundedProduct v ic := scale8_eq_div v ic

theorem additive_addChannels (ic : Nat) : AddChannels c src dst ic (additive c src dst ic) := by
  obtain ⟨ha, hr, hg, hb⟩ := additive_lanes c src dst ic
  simp only [AddChannels, ha, hr, hg, hb, add8, scale8_eq_roundedProduct, and_self]

theorem overPixel_full :
    overPixel c src dst 255 =
      c.packing.pack 255 (c.packing.red src) (c.packing.green src) (c.packing.blue src) := by
  simp only [overPixel, alpha8_full, lerp8_full]

/-- A channel added to an empty one at intensity 1.0 is copied. -/
theorem add8_onto_zero {v : Nat} (h : v < 256) : add8 v 0 65536 = v := by
  rw [add8, scale8_one, Nat.zero_add, min_eq_right (by omega)]

/-! ### What a composite answers -/

theorem composite_nonpos (mode : DrawMode) {i : Int} (h : i ≤ 0) : composite c mode src dst i = none := by
  rw [composite, condIntensity_none.2 h]

/-- Of the intensity a composite reads only what conditioning leaves of it (R100). -/
theorem composite_congr_condIntensity (mode : DrawMode) {i j : Int}
    (h : condIntensity i = condIntensity j) : composite c mode src dst i = composite c mode src dst j := by
  rw [composite, h, composite]

theorem overUnlessZero_zero : overUnlessZero c src dst 0 = none := rfl

theorem overUnlessZero_pos {ea : Nat} (h : ea ≠ 0) :
    overUnlessZero c src dst ea = some (overPixel c src dst ea) := if_neg h

section
variable {i : Int} {ic : Nat} (hi : condIntensity i = some ic)
include hi

theorem composite_opaqueMode :
    composite c .opaqueMode src dst i = overUnlessZero c src dst (eaOpaque ic) := by
  rw [composite, hi]

theorem composite_blendMode :
    composite c .blendMode src dst i = overUnlessZero c src dst (eaBlend c src ic) := by
  rw [composite, hi]

theorem composite_additiveMode : composite c .additiveMode src dst i = some (additive c src dst ic) := by
  rw [composite, hi]

end

/-- Before it looks at the destination a composite has settled what it does to it: nothing, or over with
one weight, or addition at one intensity. -/
theorem composite_cases (mode : DrawMode) (i : Int) :
    (∀ dst, composite c mode src dst i = none) ∨
    (∃ ea, ea ≤ 255 ∧ ∀ dst, composite c mode src dst i = some (overPixel c src dst ea)) ∨
    (∃ ic, ∀ dst, composite c mode src dst i = some (additive c src dst ic)) := by
  have weighted : ∀ ea, ea ≤ 255 → (∀ dst, composite c mode src dst i = overUnlessZero c src dst ea) →
      (∀ dst, composite c mode src dst i = none) ∨
      ∃ ea, ea ≤ 255 ∧ ∀ dst, composite c mode src dst i = some (overPixel c src dst ea) := by
    intro ea hea h
    obtain rfl | hpos := eq_or_ne ea 0
    · exact .inl h
    · exact .inr ⟨ea, hea, fun dst => (h dst).trans (overUnlessZero_pos c src dst hpos)⟩
  cases hi : condIntensity i with
  | none => exact .inl fun dst => composite_nonpos c src dst mode (condIntensity_none.1 hi)
  | some ic =>
    obtain ⟨-, -, hic, -⟩ := condIntensity_some hi
    cases mode with
    | opaqueMode =>
      exact or_assoc.1 (.inl (weighted _ (eaOpaque_le hic) fun dst => composite_opaqueMode c src dst hi))
    | blendMode =>
      exact or_assoc.1 (.inl (weighted _ (eaBlend_le c src hic) fun dst => composite_blendMode c src dst hi))
    | additiveMode => exact .inr (.inr ⟨ic, fun dst => composite_additiveMode c src dst hi⟩)

end

/-- Settles O14: both destinations meet the same weight or the same intensity, and each channel of the
result is a function of that channel of the destination. -/
theorem compositeLanesAreIndependent : Obligations.CompositeLanesAreIndependent := by
  intro c mode src d₁ d₂ w₁ w₂ i h₁ h₂
  obtain hnone | ⟨ea, hea, hover⟩ | ⟨ic, hadd⟩ := composite_cases c src mode i
  · cases (hnone d₁).symm.trans h₁
  · cases (hover d₁).symm.trans h₁
    cases (hover d₂).symm.trans h₂
    obtain ⟨ha₁, hr₁, hg₁, hb₁⟩ := overPixel_lanes c src d₁ hea
    obtain ⟨ha₂, hr₂, hg₂, hb₂⟩ := overPixel_lanes c src d₂ hea
    rw [ha₁, ha₂, hr₁, hr₂, hg₁, hg₂, hb₁, hb₂]
    exact ⟨congrArg _, congrArg (lerp8 _ _ · ea), congrArg (lerp8 _ _ · ea), congrArg (lerp8 _ _ · ea)⟩
  · cases (hadd d₁).symm.trans h₁
    cases (hadd d₂).symm.trans h₂
    obtain ⟨ha₁, hr₁, hg₁, hb₁⟩ := additive_lanes c src d₁ ic
    obtain ⟨ha₂, hr₂, hg₂, hb₂⟩ := additive_lanes c src d₂ ic
    rw [ha₁, ha₂, hr₁, hr₂, hg₁, hg₂, hb₁, hb₂]
    exact ⟨id, congrArg (add8 _ · ic), congrArg (add8 _ · ic), congrArg (add8 _ · ic)⟩

/-! ### COMP on a state -/

section
variable {s : State} {mode : DrawMode}

theorem State.clampedIntensity_le (s : State) : s.clampedIntensity ≤ 65536 := by
  unfold State.clampedIntensity
  omega

theorem State.condIntensity_intensity (h : 0 < s.intensity) :
    condIntensity s.intensity = some s.clampedIntensity := by
  cases hi : condIntensity s.intensity with
  | none => exact absurd (condIntensity_none.1 hi) (not_le.2 h)
  | some ic =>
    obtain ⟨-, -, -, rfl⟩ := condIntensity_some hi
    rfl

theorem setPixel_onlyPixelChanged (s : State) (i : Nat) (w : Word) :
    OnlyPixelChanged s (s.setPixel i w) i :=
  ⟨rfl, fun _ => s.setPixel_pixel_other w⟩

theorem compositePixel_none
    (h : composite s.config mode s.color (s.pixel s.pixelIndex) s.intensity = none) :
    compositePixel mode s = s := by
  rw [compositePixel, h]

/-- COMP is a no-op, in and out of bounds, when at a positive intensity the compositing function answers
no word: at any other intensity it answers none. -/
theorem compBody_none
    (h : 0 < s.intensity → composite s.config mode s.color (s.pixel s.pixelIndex) s.intensity = none) :
    compBody mode s = .next s := by
  have hnone : composite s.config mode s.color (s.pixel s.pixelIndex) s.intensity = none := by
    by_cases hpos : 0 < s.intensity
    · exact h hpos
    · exact composite_nonpos _ _ _ _ (not_lt.1 hpos)
  by_cases hb : s.InBounds
  · rw [compBody_inBounds mode hb, compositePixel_none hnone]
  · exact compBody_outside mode hb

/-- In bounds COMP stores the word the compositing function answers. -/
theorem compBody_some {w : Word} (hb : s.InBounds)
    (h : composite s.config mode s.color (s.pixel s.pixelIndex) s.intensity = some w) :
    compBody mode s = .next (s.setPixel s.pixelIndex w) := by
  rw [compBody_inBounds mode hb, compositePixel, h]

/-- COMP in bounds with a positive weight: the frame and the channels of the pixel drawn. -/
theorem compBody_overUnlessZero {ea : Nat} (hb : s.InBounds) (hpos : ea ≠ 0) (hle : ea ≤ 255)
    (h : composite s.config mode s.color (s.pixel s.pixelIndex) s.intensity =
      overUnlessZero s.config s.color (s.pixel s.pixelIndex) ea) :
    ∃ t, compBody mode s = .next t ∧ OnlyPixelChanged s t s.pixelIndex ∧
      OverChannels s.config s.color (s.pixel s.pixelIndex) ea (t.pixel s.pixelIndex) := by
  rw [overUnlessZero_pos _ _ _ hpos] at h
  refine ⟨_, compBody_some hb h, setPixel_onlyPixelChanged .., ?_⟩
  rw [State.setPixel_pixel_self]
  exact overPixel_overChannels _ _ _ hle

end

/-- Settles O15: up to intensity 128 conditioning or a zero weight leaves the pixel alone, from 129 on the
weight is positive. -/
theorem compOpaqueResult : Obligations.CompOpaqueResult := by
  refine ⟨rfl, fun s => ⟨compBody_outside _, fun _ hlow => ?_, fun hb hhigh => ?_⟩⟩
  · have hzero : eaOpaque s.clampedIntensity = 0 := by
      rw [eaOpaque_eq_zero_iff, State.clampedIntensity]; omega
    refine compBody_none fun hpos => ?_
    rw [composite_opaqueMode _ _ _ (State.condIntensity_intensity hpos), hzero, overUnlessZero_zero]
  · have hpos : eaOpaque s.clampedIntensity ≠ 0 := by
      rw [Ne, eaOpaque_eq_zero_iff, State.clampedIntensity]; omega
    obtain ⟨t, hexec, hframe, hchannels⟩ := compBody_overUnlessZero hb hpos
      (eaOpaque_le s.clampedIntensity_le)
      (composite_opaqueMode _ _ _ (State.condIntensity_intensity (by omega)))
    rw [eaOpaque, scale8_eq_roundedProduct] at hpos hchannels
    exact ⟨t, hexec, hframe, Nat.one_le_iff_ne_zero.2 hpos, hchannels⟩

theorem eaBlend_eq_roundedProduct (c : Config) (src : Word) (ic : Nat) :
    eaBlend c src ic = roundedProduct (c.packing.alpha src) ic := scale8_eq_roundedProduct _ ic

/-- Without a positive weight COMP.BLEND is a no-op. -/
theorem execCompBlend_weightless {s : State} (h : s.intensity ≤ 0 ∨
    roundedProduct (s.config.packing.alpha s.color) s.clampedIntensity = 0) :
    execCompBlend s = .next s := by
  refine compBody_none fun hpos => ?_
  rw [composite_blendMode _ _ _ (State.condIntensity_intensity hpos), eaBlend_eq_roundedProduct,
    h.resolve_left (not_le.2 hpos), overUnlessZero_zero]

/-- Settles O16: the weight is the rounded product of source alpha and intensity, and the pixel is drawn
when it is positive. -/
theorem compBlendResult : Obligations.CompBlendResult := by
  refine ⟨rfl, fun s => ⟨compBody_outside _, fun _ => execCompBlend_weightless, fun hb hpos hne => ?_⟩⟩
  rw [← eaBlend_eq_roundedProduct] at hne ⊢
  exact compBody_overUnlessZero hb hne (eaBlend_le _ _ s.clampedIntensity_le)
    (composite_blendMode _ _ _ (State.condIntensity_intensity hpos))

/-- Settles O17: with a positive intensity the additive composite always answers a word. -/
theorem compAddResult : Obligations.CompAddResult := by
  refine ⟨rfl, fun s => ⟨compBody_outside _, fun _ hlow => ?_, fun hb hpos => ?_⟩⟩
  · exact compBody_none fun _ => composite_nonpos _ _ _ _ hlow
  · refine ⟨_, compBody_some hb (composite_additiveMode _ _ _ (State.condIntensity_intensity hpos)),
      setPixel_onlyPixelChanged .., ?_⟩
    rw [State.setPixel_pixel_self]
    exact additive_addChannels ..

/-! ### COMPU -/

theorem exec_compu_outside {s : State} {i : Instr} (hi : Instr.IsCompu i) (hb : ¬ s.InBounds) :
    exec i s = .fault .unboundedCompositeIndex := by
  obtain rfl | rfl | rfl := hi <;> exact compuBody_outside _ hb

/-- Settles O18: in bounds both bodies draw the same pixel, and COLOR and INTEN are no part of the bounds
test. -/
theorem compuMatchesCompInBoundsAndFaultsOutside :
    Obligations.CompuMatchesCompInBoundsAndFaultsOutside := by
  refine ⟨rfl, rfl, rfl, fun s => ⟨fun hb => ?_, fun hb color inten i hi => ?_⟩⟩
  · exact ⟨⟨_, compuBody_inBounds _ hb, compBody_inBounds _ hb⟩,
      ⟨_, compuBody_inBounds _ hb, compBody_inBounds _ hb⟩,
      ⟨_, compuBody_inBounds _ hb, compBody_inBounds _ hb⟩⟩
  · exact exec_compu_outside (s := (s.setColor color).setInten inten) hi hb

/-! ### Intensity and source alpha -/

theorem State.setInten_intensity (s : State) (v : Word) : (s.setInten v).intensity = v.toInt := rfl

/-- Two intensities conditioned alike draw alike. -/
theorem compositePixel_setInten (mode : DrawMode) (s : State) {u v : Word}
    (h : condIntensity v.toInt = condIntensity u.toInt) :
    compositePixel mode (s.setInten v) = (compositePixel mode (s.setInten u)).setInten v := by
  simp only [compositePixel, State.setInten_config, State.setInten_color, State.setInten_pixel,
    State.setInten_pixelIndex, State.setInten_intensity, composite_congr_condIntensity _ _ _ mode h]
  split <;> rfl

theorem condIntensity_full {i : Int} (h : 65536 ≤ i) : condIntensity i = some 65536 := by
  cases hi : condIntensity i with
  | none => exact absurd (condIntensity_none.1 hi) (by omega)
  | some ic =>
    obtain ⟨-, -, -, rfl⟩ := condIntensity_some hi
    rw [min_eq_right h]
    rfl

/-- Settles O19: conditioning gives NONE up to 0 and 65536 from 65536 on. -/
theorem intensityIsConditioned : Obligations.IntensityIsConditioned := by
  intro s i hb hi v
  obtain ⟨mode, hexec⟩ := exec_composite_inBounds hi
  refine ⟨fun hlow => ?_, fun hhigh => ⟨_, hexec (s.setInten 0x00010000) hb, ?_⟩⟩
  · refine (hexec (s.setInten v) hb).trans (congrArg _ (compositePixel_none ?_))
    exact composite_nonpos _ _ _ _ hlow
  · refine (hexec (s.setInten v) hb).trans (congrArg _ (compositePixel_setInten mode s ?_))
    exact (condIntensity_full hhigh.le).trans (condIntensity_full (by decide)).symm

section
variable {c : Config} {src v : Word} (hr : c.packing.red v = c.packing.red src)
  (hg : c.packing.green v = c.packing.green src) (hb : c.packing.blue v = c.packing.blue src)
include hr hg hb

theorem overPixel_congr_colours (dst : Word) (ea : Nat) : overPixel c v dst ea = overPixel c src dst ea := by
  rw [overPixel, hr, hg, hb, overPixel]

theorem additive_congr_colours (dst : Word) (ic : Nat) : additive c v dst ic = additive c src dst ic := by
  rw [additive, hr, hg, hb, additive]

/-- OPAQUE and ADDITIVE read of the source its three colours alone. -/
theorem composite_congr_colours {mode : DrawMode} (hm : mode = .opaqueMode ∨ mode = .additiveMode)
    (dst : Word) (i : Int) : composite c mode v dst i = composite c mode src dst i := by
  cases hi : condIntensity i with
  | none =>
    have hlow := condIntensity_none.1 hi
    rw [composite_nonpos _ _ _ _ hlow, composite_nonpos _ _ _ _ hlow]
  | some ic =>
    obtain rfl | rfl := hm
    · rw [composite_opaqueMode _ _ _ hi, composite_opaqueMode _ _ _ hi, overUnlessZero,
        overPixel_congr_colours hr hg hb, overUnlessZero]
    · rw [composite_additiveMode _ _ _ hi, composite_additiveMode _ _ _ hi,
        additive_congr_colours hr hg hb]

end

/-- Two sources that composite alike draw alike. -/
theorem compositePixel_setColor (mode : DrawMode) (s : State) {v : Word}
    (h : ∀ dst i, composite s.config mode v dst i = composite s.config mode s.color dst i) :
    compositePixel mode (s.setColor v) = (compositePixel mode s).setColor v := by
  simp only [compositePixel, State.setColor_config, State.setColor_color, State.setColor_pixel,
    State.setColor_pixelIndex, State.setColor_intensity, h]
  split <;> rfl

theorem compBody_setColor (mode : DrawMode) (s : State) {v : Word}
    (h : ∀ dst i, composite s.config mode v dst i = composite s.config mode s.color dst i) :
    ∃ t, compBody mode s = .next t ∧ compBody mode (s.setColor v) = .next (t.setColor v) := by
  by_cases hb : s.InBounds
  · refine ⟨_, compBody_inBounds mode hb, ?_⟩
    rw [compBody_inBounds mode ((s.setColor_inBounds v).2 hb), compositePixel_setColor mode s h]
  · exact ⟨s, compBody_outside mode hb, compBody_outside mode (s := s.setColor v) hb⟩

/-- Settles O21: OPAQUE takes its weight from the intensity alone, ADDITIVE keeps the destination's alpha. -/
theorem opaqueAndAddIgnoreSourceAlpha : Obligations.OpaqueAndAddIgnoreSourceAlpha := by
  intro s v i hi hr hg hb
  obtain rfl | rfl := hi
  · exact compBody_setColor .opaqueMode s (composite_congr_colours hr hg hb (.inl rfl))
  · exact compBody_setColor .additiveMode s (composite_congr_colours hr hg hb (.inr rfl))

/-! ### Full intensity -/

section
variable {s : State}

/-- An over-composite with weight 255 stores the source with alpha 255. -/
theorem compBody_fullWeight {mode : DrawMode} (hb : s.InBounds)
    (h : composite s.config mode s.color (s.pixel s.pixelIndex) s.intensity =
      overUnlessZero s.config s.color (s.pixel s.pixelIndex) 255) :
    ∃ t, compBody mode s = .next t ∧
      t.pixel s.pixelIndex = s.config.packing.pack 255 (s.config.packing.red s.color)
        (s.config.packing.green s.color) (s.config.packing.blue s.color) := by
  rw [overUnlessZero_pos _ _ _ (by decide), overPixel_full] at h
  exact ⟨_, compBody_some hb h, State.setPixel_pixel_self ..⟩

/-- From 65408 on the OPAQUE weight of a state is 255. -/
theorem eaOpaque_clampedIntensity_full (h : 65408 ≤ s.intensity) :
    eaOpaque s.clampedIntensity = 255 :=
  eaOpaque_eq_full (by rw [State.clampedIntensity]; omega) s.clampedIntensity_le

end

/-- Settles O20: at weight 255 both forms copy the source, at intensity 1.0 addition onto black copies it,
and a zero source alpha has weight 0 at every intensity. -/
theorem fullIntensityCopiesSourceColour : Obligations.FullIntensityCopiesSourceColour := by
  refine ⟨overPixel_full, fun s hb => ⟨fun hI => ?_, fun hI ha => ?_, fun hI hr hg hblue => ?_, fun ha => ?_⟩⟩
  · have hcond := State.condIntensity_intensity (s := s) (by omega)
    exact compBody_fullWeight hb
      ((composite_opaqueMode _ _ _ hcond).trans (by rw [eaOpaque_clampedIntensity_full hI]))
  · have hcond := State.condIntensity_intensity (s := s) (by omega)
    have hweight : eaBlend s.config s.color s.clampedIntensity = 255 := by
      rw [eaBlend, ha]
      exact eaOpaque_clampedIntensity_full hI
    exact compBody_fullWeight hb ((composite_blendMode _ _ _ hcond).trans (by rw [hweight]))
  · refine ⟨_, compBody_some hb (composite_additiveMode _ _ _ (condIntensity_full hI)), ?_⟩
    rw [State.setPixel_pixel_self, additive, hr, hg, hblue, add8_onto_zero (Packing.red_lt _ _),
      add8_onto_zero (Packing.green_lt _ _), add8_onto_zero (Packing.blue_lt _ _)]
  · refine execCompBlend_weightless (.inr ?_)
    rw [← scale8_eq_roundedProduct, ha, scale8_zero]

end Sys2Proof.Machine

/-! SUPPORT. The family of spec/41_framebuffer.md: the commands NOP, CLR, PWR and PRD (R150-R156). -/

namespace Sys2Proof

/-! ### The four spellings of a command -/

/-- Bits a row's mask does not look at may be set in its word (R85). -/
theorem decode_encode_or {i : Instr} {m : Word} (h : m &&& opcodeMask i = 0) :
    decode (encode i ||| m) = .ok i := by
  have hrow : encode i &&& opcodeMask i = encode i := by cases i <;> rfl
  refine decode_of_match ?_
  rw [BitVec.and_or_distrib_right, hrow, h]
  exact BitVec.or_zero

/-- A command whose row leaves MODE open is spelled with each of the four modes. -/
theorem decode_spellings {i : Instr} (h : opcodeMask i = 0xFFFFFFCF) :
    ∀ c ∈ ([0x00, 0x10, 0x20, 0x30] : List Word).map (encode i ||| ·), decode c = .ok i := by
  refine List.forall_mem_map.2 fun m hm => decode_encode_or ?_
  rw [h]
  fin_cases hm <;> rfl

end Sys2Proof

namespace Sys2Proof.Machine

/-! ### CLR's word, and the commands out of bounds -/

/-- CLR's word is COLOR's red, green and blue under alpha 255, in either packing. -/
theorem clearWord_channels (c : Config) (color : Word) :
    c.packing.alpha (clearWord c color) = 255 ∧
    c.packing.red (clearWord c color) = c.packing.red color ∧
    c.packing.green (clearWord c color) = c.packing.green color ∧
    c.packing.blue (clearWord c color) = c.packing.blue color :=
  ⟨Packing.alpha_pack _ (by decide) .., Packing.red_pack _ (Packing.red_lt ..) ..,
    Packing.green_pack _ (Packing.green_lt ..) .., Packing.blue_pack _ (Packing.blue_lt ..) ..⟩

theorem exec_clr (s : State) : exec .clr s = .next (s.fillPixels (clearWord s.config s.color)) := rfl

section
variable {s : State}

theorem exec_pwr_outside (hb : ¬ s.InBounds) : exec .pwr s = .next s := if_neg hb

theorem exec_prd_outside (hb : ¬ s.InBounds) : exec .prd s = .next (s.setResult 0) := if_neg hb

end

/-! ### The four commands -/

/-- Settles O23: CLR fills with a word built from COLOR and the packing alone, and every pixel below N
reads as the fill word. -/
theorem clearFillsEveryPixelOpaque : Obligations.ClearFillsEveryPixelOpaque := by
  refine ⟨decode_spellings (i := .clr) rfl, fun s xy inten => ⟨_, exec_clr s, rfl, fun i hi => ?_, ?_⟩⟩
  · rw [State.fillPixels_pixel s _ hi]
    exact clearWord_channels s.config s.color
  · exact exec_clr ((s.setXy xy).setInten inten)

/-- Settles O24: in bounds PWR is one pixel write of COLOR, and INTEN enters neither the bounds test nor
the pixel index. -/
theorem pwrStoresColourRaw : Obligations.PwrStoresColourRaw := by
  refine ⟨decode_spellings (i := .pwr) rfl, fun s => ⟨fun hb inten => ?_, exec_pwr_outside⟩⟩
  refine ⟨_, exec_pwr_inBounds hb, State.setPixel_pixel_self .., setPixel_onlyPixelChanged .., ?_⟩
  exact exec_pwr_inBounds ((s.setInten_inBounds inten).2 hb)

/-- Settles O22: the decoder drops NOP's MODE field, and NOP's meaning is the state itself. -/
theorem nopChangesNothing : Obligations.NopChangesNothing :=
  ⟨decode_spellings (i := .nop) rfl, fun _ => rfl⟩

/-- Settles O25: the bounds test alone selects between the pixel and 0 as the new RESULT. -/
theorem prdLoadsResult : Obligations.PrdLoadsResult :=
  ⟨decode_spellings (i := .prd) rfl, fun _ => ⟨exec_prd_inBounds, exec_prd_outside⟩⟩

end Sys2Proof.Machine

/-! SUPPORT. The family of spec/60_exceptions.md: a legal command neither reads nor changes STATUS (R182,
R188). -/

namespace Sys2Proof.Machine

section
variable {i : Instr} {s t : State} (v : Word)

/-- STATUS is no operand of a composite. -/
theorem compositePixel_setStatus (mode : DrawMode) (s : State) :
    compositePixel mode (s.setStatus v) = (compositePixel mode s).setStatus v := by
  simp only [compositePixel, State.setStatus_config, State.setStatus_color, State.setStatus_pixel,
    State.setStatus_pixelIndex, State.setStatus_intensity]
  split <;> rfl

/-- In bounds a composite draws, under any STATUS; out of bounds COMP does nothing and COMPU does not
complete. -/
theorem exec_composite_setStatus (hi : Instr.IsComp i ∨ Instr.IsCompu i) (h : exec i s = .next t) :
    exec i (s.setStatus v) = .next (t.setStatus v) := by
  by_cases hb : s.InBounds
  · obtain ⟨mode, hexec⟩ := exec_composite_inBounds hi
    cases (hexec s hb).symm.trans h
    rw [hexec _ ((s.setStatus_inBounds v).2 hb), compositePixel_setStatus]
  · obtain hcomp | hcompu := hi
    · cases (exec_comp_outside hcomp hb).symm.trans h
      exact exec_comp_outside hcomp (mt (s.setStatus_inBounds v).1 hb)
    · cases (exec_compu_outside hcompu hb).symm.trans h

theorem exec_pwr_setStatus (h : exec .pwr s = .next t) :
    exec .pwr (s.setStatus v) = .next (t.setStatus v) := by
  by_cases hb : s.InBounds
  · cases (exec_pwr_inBounds hb).symm.trans h
    exact exec_pwr_inBounds ((s.setStatus_inBounds v).2 hb)
  · cases (exec_pwr_outside hb).symm.trans h
    exact exec_pwr_outside (mt (s.setStatus_inBounds v).1 hb)

theorem exec_prd_setStatus (h : exec .prd s = .next t) :
    exec .prd (s.setStatus v) = .next (t.setStatus v) := by
  by_cases hb : s.InBounds
  · cases (exec_prd_inBounds hb).symm.trans h
    exact exec_prd_inBounds ((s.setStatus_inBounds v).2 hb)
  · cases (exec_prd_outside hb).symm.trans h
    exact exec_prd_outside (mt (s.setStatus_inBounds v).1 hb)

/-- A command that completes does so under any STATUS, with the same next state but for STATUS. -/
theorem exec_setStatus_of_next (h : exec i s = .next t) :
    exec i (s.setStatus v) = .next (t.setStatus v) := by
  cases i with
  | nop | clr => cases h; rfl
  | pwr => exact exec_pwr_setStatus v h
  | prd => exact exec_prd_setStatus v h
  | compOpaque | compBlend | compAdd | compuOpaque | compuBlend | compuAdd =>
    exact exec_composite_setStatus v (by simp [Instr.IsComp, Instr.IsCompu]) h

/-- The one fault is COMPU's out of bounds, and the bounds test does not look at STATUS. -/
theorem exec_setStatus_of_fault {f : Fault} (h : exec i s = .fault f) :
    exec i (s.setStatus v) = .fault f := by
  obtain ⟨hi, hb⟩ := exec_fault_iff.1 ⟨f, h⟩
  cases (exec_compu_outside hi hb).symm.trans h
  exact exec_compu_outside hi (mt (s.setStatus_inBounds v).1 hb)

theorem exec_next_status (h : exec i s = .next t) : t.status = s.status := by
  obtain ⟨hframe, -⟩ := commandFrame i s t h
  rw [hframe]

end

/-- Settles O27: the bounds test and the drawing look at no bit of STATUS, and no command writes it. -/
theorem commandsIgnoreStatus : Obligations.CommandsIgnoreStatus :=
  fun _ _ v => ⟨fun _ h => ⟨exec_next_status h, exec_setStatus_of_next v h⟩,
    fun _ => exec_setStatus_of_fault v⟩

end Sys2Proof.Machine

/-! SUPPORT. The family of spec/70_reset_and_hazards.md: the reset input and the state after reset (R200,
R201), and operand writes that other requesters interleave (R210). -/

namespace Sys2Proof.Machine

/-- With nothing written since the last reset every pixel holds its free value (R201). -/
theorem State.pixel_of_fb_nil {s : State} (h : s.fb = []) (i : Nat) :
    s.pixel i = Config.powerOnPixel s.draws i := by
  rw [State.pixel, h]; rfl

/-- The state of R201 meets the invariant in every legal configuration. -/
theorem State.powerUp_inv {c : Config} (hc : c.Legal) (draw : Nat) : (State.powerUp c draw).Inv :=
  ⟨hc, Memory.wf_nil _, BitVec.zero_and⟩

section
variable {s t : State} {rest : List Event}

theorem step_reset (hp : s.pending = .reset :: rest) : step s = .next (s.setPending rest).takeReset :=
  step_cons hp

/-- A command after two writes of one operand register runs on the state the second write alone leaves. -/
theorem run_write_write_mnemonic {r : Reg} {v w : Word} {i : Instr} (hr : r = .xy ∨ r = .color ∨ r = .inten)
    (hp : s.pending = wr s.config r.offset v :: wr s.config r.offset w :: mnemonic s.config i :: rest)
    (hw : hostWrite (some r) w (s.setPending rest) = .next t) :
    Host.Core.run Sys2Proof.core 3 s = exec i t := by
  have hfirst := step_wr hp
  obtain rfl | rfl | rfl := hr <;>
  · cases hw
    refine (run_succ 2 hfirst).trans ((run_succ 1 ((step_wr rfl).trans rfl)).trans ?_)
    exact (run_one _).trans (step_mnemonic rfl)

end

/-- Settles O43: the step answers `State.takeReset`, whose framebuffer has no written pixel. -/
theorem resetInputGivesResetState : Obligations.ResetInputGivesResetState := by
  intro s rest hp
  have hfb : (s.setPending rest).takeReset.fb = [] := State.takeReset_fb _
  exact ⟨_, step_reset hp, by simpa using State.pixel_of_fb_nil hfb⟩

/-- Settles O44: the registers by definition, the pixels because nothing is written yet. -/
theorem resetStateIsAsStated : Obligations.ResetStateIsAsStated :=
  ⟨rfl, rfl, rfl, rfl, rfl, rfl, State.pixel_of_fb_nil rfl⟩

/-- Settles O45: the command samples its operands when it runs, after the second write. -/
theorem interleavedOperandWriteIsUsed : Obligations.InterleavedOperandWriteIsUsed := by
  intro s i v w rest
  refine ⟨fun hp => ?_, fun hp => ?_, fun hp => ?_⟩
  · exact run_write_write_mnemonic (r := .xy) (.inl rfl) hp rfl
  · exact run_write_write_mnemonic (r := .color) (.inr (.inl rfl)) hp rfl
  · exact run_write_write_mnemonic (r := .inten) (.inr (.inr rfl)) hp rfl

/-- Settles O51: the configuration of log 2 is legal. -/
theorem resetMeetsMachineInvariant : Obligations.ResetMeetsMachineInvariant :=
  State.powerUp_inv (by decide) 0

end Sys2Proof.Machine
